-- ==== Sys2Proof/Word.lean ====
section
/-! DEFINITION. The widths the spec gives values: bytes, 16-bit words, register numbers. -/

namespace Sys2Proof

/-- An 8-bit value: a `V` register, a timer, a memory byte, the immediate `nn` (R20, R27, R50, R72). -/
abbrev Byte := BitVec 8

/-- A 16-bit value: `I`, `PC`, a stack entry, an instruction word (R22, R25, R26, R70). -/
abbrev Word := BitVec 16

/-- The number of a general register, `V0` to `VF`, as the 4-bit fields `x` and `y` select it (R20, R72). -/
abbrev Reg := Fin 16

end Sys2Proof
end

