-- ==== Sys2Proof/Syntax.lean ====
section
/-! DEFINITION. The instruction set: the 35 rows of R74, each with the fields its row uses (R72, R79).

Operands have exactly the width of their field, so a term holds no value that an encoding could not hold. -/

namespace Sys2Proof

/-- One constructor per row of R74, in the table's order. `x`, `y`: register numbers; `nn`: 8-bit immediate;
`nnn`: 12-bit immediate; `n`: the row count of a sprite. -/
inductive Instr where
  | nop                               -- 0000
  | cls                               -- 00E0
  | ret                               -- 00EE
  | jp (nnn : BitVec 12)              -- 1nnn
  | call (nnn : BitVec 12)            -- 2nnn
  | seImm (x : Reg) (nn : Byte)       -- 3xnn
  | sneImm (x : Reg) (nn : Byte)      -- 4xnn
  | seReg (x y : Reg)                 -- 5xy0
  | ldImm (x : Reg) (nn : Byte)       -- 6xnn
  | addImm (x : Reg) (nn : Byte)      -- 7xnn
  | ldReg (x y : Reg)                 -- 8xy0
  | orReg (x y : Reg)                 -- 8xy1
  | andReg (x y : Reg)                -- 8xy2
  | xorReg (x y : Reg)                -- 8xy3
  | addReg (x y : Reg)                -- 8xy4
  | sub (x y : Reg)                   -- 8xy5
  | shr (x y : Reg)                   -- 8xy6; y is decoded and ignored (R78)
  | subn (x y : Reg)                  -- 8xy7
  | shl (x y : Reg)                   -- 8xyE; y is decoded and ignored (R78)
  | sneReg (x y : Reg)                -- 9xy0
  | ldI (nnn : BitVec 12)             -- Annn
  | jpV0 (nnn : BitVec 12)            -- Bnnn
  | rnd (x : Reg) (nn : Byte)         -- Cxnn
  | drw (x y : Reg) (n : Fin 16)      -- Dxyn
  | skp (x : Reg)                     -- Ex9E
  | sknp (x : Reg)                    -- ExA1
  | ldVxDT (x : Reg)                  -- Fx07
  | ldVxK (x : Reg)                   -- Fx0A
  | ldDTVx (x : Reg)                  -- Fx15
  | ldSTVx (x : Reg)                  -- Fx18
  | addI (x : Reg)                    -- Fx1E
  | ldF (x : Reg)                     -- Fx29
  | ldB (x : Reg)                     -- Fx33
  | ldMemVx (x : Reg)                 -- Fx55
  | ldVxMem (x : Reg)                 -- Fx65
deriving DecidableEq, Repr

end Sys2Proof
end

