-- ==== Sys2Proof/WellFormed.lean ====
section
/-! DEFINITION. The checks on raw data that the spec makes: is a 16-bit value an instruction word (the mask and match
columns of R74), does an image fit (R175), is a key index one of the keypad's (R174); and the canonical spelling of
the two rows that ignore a field (R78, R80).

No check is left for an `Instr` term itself: every operand has the width of its field, and all values of every field
are legal (R73). -/

namespace Sys2Proof

/-- The mask and match columns of one row of R74. -/
structure Row where
  mask : Word
  value : Word
deriving DecidableEq, Repr

/-- "an `op` belongs to the row iff `(op & mask) = match`" (R74). -/
def Row.matches (r : Row) (op : Word) : Bool := op &&& r.mask == r.value

/-- The row of R74 that each constructor stands for. -/
def Instr.row : Instr → Row
  | .nop => ⟨0xFFFF, 0x0000⟩
  | .cls => ⟨0xFFFF, 0x00E0⟩
  | .ret => ⟨0xFFFF, 0x00EE⟩
  | .jp _ => ⟨0xF000, 0x1000⟩
  | .call _ => ⟨0xF000, 0x2000⟩
  | .seImm _ _ => ⟨0xF000, 0x3000⟩
  | .sneImm _ _ => ⟨0xF000, 0x4000⟩
  | .seReg _ _ => ⟨0xF00F, 0x5000⟩
  | .ldImm _ _ => ⟨0xF000, 0x6000⟩
  | .addImm _ _ => ⟨0xF000, 0x7000⟩
  | .ldReg _ _ => ⟨0xF00F, 0x8000⟩
  | .orReg _ _ => ⟨0xF00F, 0x8001⟩
  | .andReg _ _ => ⟨0xF00F, 0x8002⟩
  | .xorReg _ _ => ⟨0xF00F, 0x8003⟩
  | .addReg _ _ => ⟨0xF00F, 0x8004⟩
  | .sub _ _ => ⟨0xF00F, 0x8005⟩
  | .shr _ _ => ⟨0xF00F, 0x8006⟩
  | .subn _ _ => ⟨0xF00F, 0x8007⟩
  | .shl _ _ => ⟨0xF00F, 0x800E⟩
  | .sneReg _ _ => ⟨0xF00F, 0x9000⟩
  | .ldI _ => ⟨0xF000, 0xA000⟩
  | .jpV0 _ => ⟨0xF000, 0xB000⟩
  | .rnd _ _ => ⟨0xF000, 0xC000⟩
  | .drw _ _ _ => ⟨0xF000, 0xD000⟩
  | .skp _ => ⟨0xF0FF, 0xE09E⟩
  | .sknp _ => ⟨0xF0FF, 0xE0A1⟩
  | .ldVxDT _ => ⟨0xF0FF, 0xF007⟩
  | .ldVxK _ => ⟨0xF0FF, 0xF00A⟩
  | .ldDTVx _ => ⟨0xF0FF, 0xF015⟩
  | .ldSTVx _ => ⟨0xF0FF, 0xF018⟩
  | .addI _ => ⟨0xF0FF, 0xF01E⟩
  | .ldF _ => ⟨0xF0FF, 0xF029⟩
  | .ldB _ => ⟨0xF0FF, 0xF033⟩
  | .ldMemVx _ => ⟨0xF0FF, 0xF055⟩
  | .ldVxMem _ => ⟨0xF0FF, 0xF065⟩

/-- The rows with major opcode 0 to 7 (R74, rows 1 to 10). -/
def opcodeTableLow : List Row :=
  [⟨0xFFFF, 0x0000⟩, ⟨0xFFFF, 0x00E0⟩, ⟨0xFFFF, 0x00EE⟩, ⟨0xF000, 0x1000⟩, ⟨0xF000, 0x2000⟩,
   ⟨0xF000, 0x3000⟩, ⟨0xF000, 0x4000⟩, ⟨0xF00F, 0x5000⟩, ⟨0xF000, 0x6000⟩, ⟨0xF000, 0x7000⟩]

/-- The rows with major opcode 8 to D (R74, rows 11 to 24). -/
def opcodeTableMid : List Row :=
  [⟨0xF00F, 0x8000⟩, ⟨0xF00F, 0x8001⟩, ⟨0xF00F, 0x8002⟩, ⟨0xF00F, 0x8003⟩, ⟨0xF00F, 0x8004⟩,
   ⟨0xF00F, 0x8005⟩, ⟨0xF00F, 0x8006⟩, ⟨0xF00F, 0x8007⟩, ⟨0xF00F, 0x800E⟩, ⟨0xF00F, 0x9000⟩,
   ⟨0xF000, 0xA000⟩, ⟨0xF000, 0xB000⟩, ⟨0xF000, 0xC000⟩, ⟨0xF000, 0xD000⟩]

/-- The rows with major opcode E and F (R74, rows 25 to 35). -/
def opcodeTableHigh : List Row :=
  [⟨0xF0FF, 0xE09E⟩, ⟨0xF0FF, 0xE0A1⟩, ⟨0xF0FF, 0xF007⟩, ⟨0xF0FF, 0xF00A⟩, ⟨0xF0FF, 0xF015⟩,
   ⟨0xF0FF, 0xF018⟩, ⟨0xF0FF, 0xF01E⟩, ⟨0xF0FF, 0xF029⟩, ⟨0xF0FF, 0xF033⟩, ⟨0xF0FF, 0xF055⟩,
   ⟨0xF0FF, 0xF065⟩]

/-- The 35 rows of R74: "The instruction set is exactly the 35 rows below". -/
def opcodeTable : List Row := opcodeTableLow ++ opcodeTableMid ++ opcodeTableHigh

/-- A 16-bit value is an instruction word: it matches a row of R74. -/
def instructionWord (op : Word) : Bool := opcodeTable.any (·.matches op)

/-- LOAD's precondition, `len(bytes) <= 4096 - 0x200` (R175). -/
def imageFits (bytes : List Byte) : Bool := bytes.length ≤ 3584

/-- SET_KEY's "valid index range [0,15]" (R174). -/
def keyIndexOk (index : Nat) : Bool := index ≤ 15

/-- The spelling an assembler emits: the ignored field of `8xy6` and `8xyE` is 0 (R78, R80). It is no condition of the
decoder or of a meaning: every `y` is accepted. -/
def Instr.canonical : Instr → Bool
  | .shr _ y => y == 0
  | .shl _ y => y == 0
  | .nop | .cls | .ret => true
  | .jp _ | .call _ | .ldI _ | .jpV0 _ => true
  | .seImm _ _ | .sneImm _ _ | .ldImm _ _ | .addImm _ _ | .rnd _ _ => true
  | .seReg _ _ | .sneReg _ _ | .ldReg _ _ | .orReg _ _ | .andReg _ _ | .xorReg _ _ => true
  | .addReg _ _ | .sub _ _ | .subn _ _ => true
  | .drw _ _ _ => true
  | .skp _ | .sknp _ | .ldVxDT _ | .ldVxK _ | .ldDTVx _ | .ldSTVx _ => true
  | .addI _ | .ldF _ | .ldB _ | .ldMemVx _ | .ldVxMem _ => true

end Sys2Proof
end

