-- ==== Sys2Proof/Decode.lean ====
section
/-! DEFINITION. Decoding (R70 to R79), and the encoder written from the same rows of R74. -/

namespace Sys2Proof

/-- `d1 = op[15:12]` (R72). -/
def fieldD1 (op : Word) : Nat := op.toNat / 0x1000

/-- `x = op[11:8]` (R72). -/
def fieldX (op : Word) : Reg := Fin.ofNat 16 (op.toNat / 0x100)

/-- `y = op[7:4]` (R72). -/
def fieldY (op : Word) : Reg := Fin.ofNat 16 (op.toNat / 0x10)

/-- `n = op[3:0]`, which is also `d4` (R72). -/
def fieldN (op : Word) : Fin 16 := Fin.ofNat 16 op.toNat

/-- `nn = op[7:0]` (R72). -/
def fieldNN (op : Word) : Byte := BitVec.ofNat 8 op.toNat

/-- `nnn = op[11:0]` (R72). -/
def fieldNNN (op : Word) : BitVec 12 := BitVec.ofNat 12 op.toNat

/-- The rows with `d1 = 0`: exact words (R74 rows 1 to 3; R76). -/
def decode0 (op : Word) : Option Instr :=
  match op.toNat with
  | 0x0000 => some .nop
  | 0x00E0 => some .cls
  | 0x00EE => some .ret
  | _ => none

/-- The rows with `d1 = 8`, told apart by `d4` (R74 rows 11 to 19; R76). -/
def decode8 (op : Word) : Option Instr :=
  match (fieldN op).val with
  | 0x0 => some (.ldReg (fieldX op) (fieldY op))
  | 0x1 => some (.orReg (fieldX op) (fieldY op))
  | 0x2 => some (.andReg (fieldX op) (fieldY op))
  | 0x3 => some (.xorReg (fieldX op) (fieldY op))
  | 0x4 => some (.addReg (fieldX op) (fieldY op))
  | 0x5 => some (.sub (fieldX op) (fieldY op))
  | 0x6 => some (.shr (fieldX op) (fieldY op))
  | 0x7 => some (.subn (fieldX op) (fieldY op))
  | 0xE => some (.shl (fieldX op) (fieldY op))
  | _ => none

/-- The rows with `d1 = E`, told apart by `nn` (R74 rows 25 and 26; R76). -/
def decodeE (op : Word) : Option Instr :=
  match (fieldNN op).toNat with
  | 0x9E => some (.skp (fieldX op))
  | 0xA1 => some (.sknp (fieldX op))
  | _ => none

/-- The rows with `d1 = F`, told apart by `nn` (R74 rows 27 to 35; R76). -/
def decodeF (op : Word) : Option Instr :=
  match (fieldNN op).toNat with
  | 0x07 => some (.ldVxDT (fieldX op))
  | 0x0A => some (.ldVxK (fieldX op))
  | 0x15 => some (.ldDTVx (fieldX op))
  | 0x18 => some (.ldSTVx (fieldX op))
  | 0x1E => some (.addI (fieldX op))
  | 0x29 => some (.ldF (fieldX op))
  | 0x33 => some (.ldB (fieldX op))
  | 0x55 => some (.ldMemVx (fieldX op))
  | 0x65 => some (.ldVxMem (fieldX op))
  | _ => none

/-- The decoder: "a total function from the 65,536 values of `op`" to an instruction with its field values, or none for
an unimplemented word (R75, R76). `d1` has 4 bits, so the last arm is `d1 = F`. -/
def decodeWord (op : Word) : Option Instr :=
  match fieldD1 op with
  | 0x0 => decode0 op
  | 0x1 => some (.jp (fieldNNN op))
  | 0x2 => some (.call (fieldNNN op))
  | 0x3 => some (.seImm (fieldX op) (fieldNN op))
  | 0x4 => some (.sneImm (fieldX op) (fieldNN op))
  | 0x5 => if (fieldN op).val = 0 then some (.seReg (fieldX op) (fieldY op)) else none
  | 0x6 => some (.ldImm (fieldX op) (fieldNN op))
  | 0x7 => some (.addImm (fieldX op) (fieldNN op))
  | 0x8 => decode8 op
  | 0x9 => if (fieldN op).val = 0 then some (.sneReg (fieldX op) (fieldY op)) else none
  | 0xA => some (.ldI (fieldNNN op))
  | 0xB => some (.jpV0 (fieldNNN op))
  | 0xC => some (.rnd (fieldX op) (fieldNN op))
  | 0xD => some (.drw (fieldX op) (fieldY op) (fieldN op))
  | 0xE => decodeE op
  | _ => decodeF op

/-- Why a byte sequence holds no instruction at its front. -/
inductive Reject where
  /-- Fewer than the two bytes of an instruction word (R70). -/
  | tooShort
  /-- The word matches no row of R74 (R76). -/
  | unimplemented (op : Word)
deriving DecidableEq, Repr

/-- "big-endian combine into a 16-bit opcode": `256 * MEM[pc0] + MEM[pc0 + 1]` (R58, R60). -/
def wordOfBytes (hi lo : Byte) : Word := BitVec.ofNat 16 (256 * hi.toNat + lo.toNat)

/-- The byte at the lower address: bits 15 to 8 (R60). -/
def highByte (op : Word) : Byte := BitVec.ofNat 8 (op.toNat / 256)

/-- The byte at the higher address: bits 7 to 0 (R60). -/
def lowByte (op : Word) : Byte := BitVec.ofNat 8 op.toNat

/-- Decoding of any bytes: the instruction at their front and the bytes after it, or the reason why there is none. -/
def decodeBytes : List Byte → Except Reject (Instr × List Byte)
  | hi :: lo :: rest =>
    match decodeWord (wordOfBytes hi lo) with
    | some i => .ok (i, rest)
    | none => .error (.unimplemented (wordOfBytes hi lo))
  | [_] => .error .tooShort
  | [] => .error .tooShort

/-- The host's reading of an opcode-table word: the word is laid out as the hardware stores it (R60: high byte first)
and given to the decoder. Every row of the table has 16 bits, one word. -/
def decodeTableWord (nbits w : Nat) : Option Instr :=
  let op : Word := BitVec.ofNat 16 (w % 2 ^ nbits)
  match decodeBytes [highByte op, lowByte op] with
  | .ok (i, _) => some i
  | .error _ => none

/-- `d1 :: d2 :: d3 :: d4` (R70), given the low twelve bits as one number. -/
def packWord (d1 low12 : Nat) : Word := BitVec.ofNat 16 (0x1000 * d1 + low12)

/-- A word with the fields `d1`, `x`, `nn` (R72). -/
def packXNN (d1 : Nat) (x : Reg) (nn : Nat) : Word := packWord d1 (0x100 * x.val + nn)

/-- A word with the fields `d1`, `x`, `y`, `n` (R72). -/
def packXYN (d1 : Nat) (x y : Reg) (n : Nat) : Word := packWord d1 (0x100 * x.val + 0x10 * y.val + n)

/-- The encoder: the word of each row of R74. -/
def encode : Instr → Word
  | .nop => 0x0000
  | .cls => 0x00E0
  | .ret => 0x00EE
  | .jp nnn => packWord 0x1 nnn.toNat
  | .call nnn => packWord 0x2 nnn.toNat
  | .seImm x nn => packXNN 0x3 x nn.toNat
  | .sneImm x nn => packXNN 0x4 x nn.toNat
  | .seReg x y => packXYN 0x5 x y 0x0
  | .ldImm x nn => packXNN 0x6 x nn.toNat
  | .addImm x nn => packXNN 0x7 x nn.toNat
  | .ldReg x y => packXYN 0x8 x y 0x0
  | .orReg x y => packXYN 0x8 x y 0x1
  | .andReg x y => packXYN 0x8 x y 0x2
  | .xorReg x y => packXYN 0x8 x y 0x3
  | .addReg x y => packXYN 0x8 x y 0x4
  | .sub x y => packXYN 0x8 x y 0x5
  | .shr x y => packXYN 0x8 x y 0x6
  | .subn x y => packXYN 0x8 x y 0x7
  | .shl x y => packXYN 0x8 x y 0xE
  | .sneReg x y => packXYN 0x9 x y 0x0
  | .ldI nnn => packWord 0xA nnn.toNat
  | .jpV0 nnn => packWord 0xB nnn.toNat
  | .rnd x nn => packXNN 0xC x nn.toNat
  | .drw x y n => packXYN 0xD x y n.val
  | .skp x => packXNN 0xE x 0x9E
  | .sknp x => packXNN 0xE x 0xA1
  | .ldVxDT x => packXNN 0xF x 0x07
  | .ldVxK x => packXNN 0xF x 0x0A
  | .ldDTVx x => packXNN 0xF x 0x15
  | .ldSTVx x => packXNN 0xF x 0x18
  | .addI x => packXNN 0xF x 0x1E
  | .ldF x => packXNN 0xF x 0x29
  | .ldB x => packXNN 0xF x 0x33
  | .ldMemVx x => packXNN 0xF x 0x55
  | .ldVxMem x => packXNN 0xF x 0x65

end Sys2Proof
end

