-- ==== Sys2Proof/Config.lean ====
section
/-! DEFINITION. What the spec leaves open (R7): the parameters `FONT` and `KEYWAIT_PICK`, and the free draws of STEP.

`Params` is plain data that `State` carries and that no operation writes, so a statement about every state is a
statement about every `FONT` and every `KEYWAIT_PICK`. The draws are opaque: nothing in Lean can evaluate them. -/

namespace Sys2Proof

/-- Which pressed key the key wait `Fx0A` reports when several are down (R7, R163; D11). -/
inductive KeywaitPick where
  | lowest   -- the scan stops at the first pressed key
  | highest  -- the scan goes on, and a later pressed key overwrites an earlier one
  | any      -- a draw among the pressed keys
deriving DecidableEq, Repr

/-- The parameters that the spec tells a model to take as arguments (R7). -/
structure Params where
  /-- `FONT`: the 80 bytes that reset copies to 0x000–0x04F (R52, R55; D17). -/
  font : Vector Byte 80
  /-- `KEYWAIT_PICK` (R163; D11). -/
  keywaitPick : KeywaitPick
deriving DecidableEq, Repr

/-- FREE VALUE: the `n`-th byte drawn for `Cxnn` (R132; D16). Log entry 3. -/
opaque Config.rnd : Nat → Byte

/-- FREE VALUE: the `n`-th choice drawn for `Fx0A` under `KEYWAIT_PICK = any` (R163, R170; D11). Log entry 3. -/
opaque Config.choice : Nat → Nat

end Sys2Proof
end

