-- ==== Sys2Proof/Machine/Font.lean ====
section
/-! DEFINITION. The default value of the parameter `FONT` (R55). The spec gives it from general knowledge, "never as a
fact about the hardware": PRESUMED, log entry 1. -/

namespace Sys2Proof.Machine

/-- The glyphs of the digits 0 to 3 in the default table of R55. -/
def glyphs0to3 : Vector Byte 20 :=
  #v[0xF0, 0x90, 0x90, 0x90, 0xF0,
     0x20, 0x60, 0x20, 0x20, 0x70,
     0xF0, 0x10, 0xF0, 0x80, 0xF0,
     0xF0, 0x10, 0xF0, 0x10, 0xF0]

/-- The glyphs of the digits 4 to 7 in the default table of R55. -/
def glyphs4to7 : Vector Byte 20 :=
  #v[0x90, 0x90, 0xF0, 0x10, 0x10,
     0xF0, 0x80, 0xF0, 0x10, 0xF0,
     0xF0, 0x80, 0xF0, 0x90, 0xF0,
     0xF0, 0x10, 0x20, 0x40, 0x40]

/-- The glyphs of the digits 8 to B in the default table of R55. -/
def glyphs8toB : Vector Byte 20 :=
  #v[0xF0, 0x90, 0xF0, 0x90, 0xF0,
     0xF0, 0x90, 0xF0, 0x10, 0xF0,
     0xF0, 0x90, 0xF0, 0x90, 0x90,
     0xE0, 0x90, 0xE0, 0x90, 0xE0]

/-- The glyphs of the digits C to F in the default table of R55. -/
def glyphsCtoF : Vector Byte 20 :=
  #v[0xF0, 0x80, 0x80, 0x80, 0xF0,
     0xE0, 0x90, 0x90, 0x90, 0xE0,
     0xF0, 0x80, 0xF0, 0x80, 0xF0,
     0xF0, 0x80, 0xF0, 0x80, 0x80]

/-- The default table of R55: 16 glyphs of 5 bytes, digit 0 first. -/
def defaultFont : Vector Byte 80 := glyphs0to3 ++ glyphs4to7 ++ glyphs8toB ++ glyphsCtoF

/-- The parameters of the machine that `State.reset` is: the default `FONT` (PRESUMED, log entry 1), and
`KEYWAIT_PICK = any`, the setting that admits every reading of the source (DESIGN CHOICE, log entry 2). -/
def defaultParams : Params := { font := defaultFont, keywaitPick := .any }

end Sys2Proof.Machine
end

