-- ==== Sys2Proof/Machine/State.lean ====
section
/-! DEFINITION. The state of the machine: the eleven components of R20 to R32, and the model's own fields for what the
spec leaves open (the parameters of R7 and the drawn inputs of STEP, R170). -/

namespace Sys2Proof.Machine

/-- The cause that `FAULT` holds, with its information (R190). Raised by a STEP, which latches it and keeps every other
component (R195): a next state, not an outcome `fault`. -/
inductive Cause where
  /-- A fetch at `pc0 > 0xFFE` (R191). -/
  | fetchOutOfBounds (pc0 : Word)
  /-- A word that matches no row of R74 (R192). -/
  | unimplementedOpcode (op : Word)
  /-- `2nnn` with `SP = 16` (R193). -/
  | stackOverflow
  /-- `00EE` with `SP = 0` (R194). -/
  | stackUnderflow
  /-- A data access above 0xFFF by `Dxyn`, `Fx33`, `Fx55` or `Fx65`, with the lowest such address (R196). -/
  | memoryOutOfBounds (addr : Nat)
  /-- `Ex9E` or `ExA1` with `V[x] > 15` (R197). -/
  | keyIndexOutOfRange (k : Byte)
deriving DecidableEq, Repr

/-- The bytes that differ from the reset contents, by strictly rising address (Ops.lean, `Memory.wf`). -/
abbrev Memory := List Host.Cell

/-- Everything the spec gives the machine, and the model's own fields at the end. -/
structure State where
  /-- `V[0]` to `V[15]` (R20, R21). -/
  v : Vector Byte 16
  /-- `I` (R25). -/
  i : Word
  /-- `PC`; between operations, the address of the next instruction (R22). -/
  pc : Word
  /-- `SP`, the number of stack entries in use: 0 to 16 (R26). -/
  sp : Fin 17
  /-- `STACK[0]` to `STACK[15]` (R26). -/
  stack : Vector Word 16
  /-- `DT` (R27). -/
  dt : Byte
  /-- `ST` (R28). -/
  st : Byte
  /-- `FB`: 2048 one-bit pixels; bit `k` is `FB[k]`, `k = x + 64*y` (R29). -/
  fb : BitVec 2048
  /-- `KEY[0]` to `KEY[15]`, true when pressed (R30). -/
  key : Vector Bool 16
  /-- `MEM`, by its difference from the reset contents (R31). -/
  mem : Memory
  /-- `FAULT` (R32). -/
  fault : Option Cause
  /-- The model's own: the parameters of R7, which no operation writes. -/
  params : Params
  /-- The model's own: the byte drawn for the next `Cxnn`, STEP's argument `rnd` (R79, R132, R170). FREE VALUE. -/
  rnd : Byte
  /-- The model's own: the choice drawn for the next `Fx0A` under `KEYWAIT_PICK = any` (R163, R170). FREE VALUE. -/
  choice : Nat
  /-- The model's own: how many draws were taken; the next one is the opaque `Config.rnd` and `Config.choice` of it. -/
  draws : Nat
deriving DecidableEq, Repr

/-- The reasons for which a step stops with a fault: none. Every fatal condition of the spec is a `Cause` that a next
state holds in `FAULT` (R190, R195, R203). -/
inductive Fault where
deriving DecidableEq, Repr

/-- The reasons for which a step is refused. -/
inductive Refusal where
  /-- Raised by `exec` for an instruction that has no meaning yet. Safe: nothing is claimed about it. No arm of `exec`
  raises it in this model. -/
  | notModelled (mnemonic : String)
deriving DecidableEq, Repr

/-- The state that RESET leaves (R33, R210), given the machine's parameters and what its draws are: memory lists
nothing, so it reads as `FONT` and zeros. -/
def State.resetWith (p : Params) (rnd : Byte) (choice draws : Nat) : State where
  v := Vector.replicate 16 0
  i := 0
  pc := 0x200
  sp := 0
  stack := Vector.replicate 16 0
  dt := 0
  st := 0
  fb := 0
  key := Vector.replicate 16 false
  mem := []
  fault := none
  params := p
  rnd := rnd
  choice := choice
  draws := draws

/-- The machine right after reset (R33, R211), with the default parameters; its draws are free. -/
def State.reset : State := State.resetWith defaultParams (Config.rnd 0) (Config.choice 0) 0

end Sys2Proof.Machine
end

