-- ==== Sys2Proof/Machine/Ops.lean ====
section
/-! DEFINITION. The named operations over memory, registers, the stack, the keypad and the framebuffer, and taking a
fault. Every access of a meaning goes through these. -/

namespace Sys2Proof.Machine

/-- What one STEP answers. -/
abbrev Result := Host.Outcome State Fault Refusal

/-! ### Memory (R50 to R66) -/

/-- What an address that memory does not list reads as: its reset contents, `FONT` at 0x000–0x04F and zero above
(R51, R52, R54). -/
def Memory.unlisted (p : Params) (a : Nat) : Byte :=
  if h : a < 80 then p.font[a] else 0

/-- The byte listed for an address, if there is one. -/
def Memory.lookup : Memory → Nat → Option Byte
  | [], _ => none
  | (b, v) :: m, a => if a = b then some v else Memory.lookup m a

/-- `MEM[a]`. -/
def Memory.read (p : Params) (m : Memory) (a : Nat) : Byte :=
  (Memory.lookup m a).getD (Memory.unlisted p a)

/-- List a byte for an address, in the address's place. -/
def Memory.put : Memory → Nat → Byte → Memory
  | [], a, v => [(a, v)]
  | (b, w) :: m, a, v =>
    if a < b then (a, v) :: (b, w) :: m
    else if a = b then (a, v) :: m
    else (b, w) :: Memory.put m a v

/-- List no byte for an address. -/
def Memory.erase : Memory → Nat → Memory
  | [], _ => []
  | (b, w) :: m, a => if a = b then Memory.erase m a else (b, w) :: Memory.erase m a

/-- `MEM[a] <- v`, in canonical form: the reset contents are not listed. -/
def Memory.write (p : Params) (m : Memory) (a : Nat) (v : Byte) : Memory :=
  if v = Memory.unlisted p a then Memory.erase m a else Memory.put m a v

/-- `MEM[a + k] <- bytes[k]` for every `k`, ascending. -/
def Memory.writeList (p : Params) : Memory → Nat → List Byte → Memory
  | m, _, [] => m
  | m, a, b :: bs => Memory.writeList p (Memory.write p m a b) (a + 1) bs

/-- The canonical form from address `lo` on. -/
def Memory.wfFrom (p : Params) : Nat → Memory → Bool
  | _, [] => true
  | lo, (a, v) :: m =>
    decide (lo ≤ a) && decide (a < 4096) && decide (v ≠ Memory.unlisted p a) && Memory.wfFrom p (a + 1) m

/-- The canonical form: addresses of `MEM` (R50), strictly rising, none listed with its reset contents. -/
def Memory.wf (p : Params) (m : Memory) : Bool := Memory.wfFrom p 0 m

/-- One byte of memory. -/
def State.byteAt (s : State) (a : Nat) : Byte := Memory.read s.params s.mem a

/-- `MemRead(addr, 1)` (R57): above 0xFFF, `MemoryOutOfBounds`; no wrap. -/
def State.memRead (s : State) (a : Nat) : Except Cause Byte :=
  if a ≤ 0xFFF then .ok (s.byteAt a) else .error (.memoryOutOfBounds a)

/-- `MemWrite(addr, 1, v)` (R59): above 0xFFF, `MemoryOutOfBounds`. -/
def State.memWrite (s : State) (a : Nat) (v : Byte) : Except Cause State :=
  if a ≤ 0xFFF then .ok { s with mem := Memory.write s.params s.mem a v }
  else .error (.memoryOutOfBounds a)

/-- `n` data bytes, read one by one at ascending addresses (R62, R140). -/
def State.readBytes (s : State) : Nat → Nat → Except Cause (List Byte)
  | _, 0 => .ok []
  | a, n + 1 =>
    match s.memRead a with
    | .error c => .error c
    | .ok b =>
      match s.readBytes (a + 1) n with
      | .error c => .error c
      | .ok bs => .ok (b :: bs)

/-- Data bytes, written one by one at ascending addresses (R62, R140). -/
def State.writeBytes : State → Nat → List Byte → Except Cause State
  | s, _, [] => .ok s
  | s, a, b :: bs =>
    match s.memWrite a b with
    | .error c => .error c
    | .ok t => State.writeBytes t (a + 1) bs

/-- `MemRead(pc0, 2)`, the instruction fetch (R58): high byte first (R60), at any alignment (R61). -/
def State.fetch (s : State) : Except Cause Word :=
  if s.pc.toNat ≤ 0xFFE then .ok (wordOfBytes (s.byteAt s.pc.toNat) (s.byteAt (s.pc.toNat + 1)))
  else .error (.fetchOutOfBounds s.pc)

/-! ### Registers (R20 to R25) -/

/-- `VF`, the flag register (R21). -/
abbrev VF : Reg := 15

/-- `V[x]`. -/
def State.reg (s : State) (x : Reg) : Byte := s.v[x.val]

/-- `V[x] <- b`. -/
def State.setReg (s : State) (x : Reg) (b : Byte) : State := { s with v := s.v.set x.val b }

/-- `V[k] <- bytes[k]` for every `k` below the length. -/
def State.setRegs (s : State) (bytes : List Byte) : State :=
  { s with v := Vector.ofFn fun k : Fin 16 => bytes.getD k.val (s.reg k) }

/-- `V[0]` to `V[x]`, inclusive. -/
def State.regsUpTo (s : State) (x : Reg) : List Byte := s.v.toList.take (x.val + 1)

/-- `I <- w`. -/
def State.setI (s : State) (w : Word) : State := { s with i := w }

/-- `PC <- w`. -/
def State.setPc (s : State) (w : Word) : State := { s with pc := w }

/-- `PC <- PC + 2`: the fetch's advance (R71). -/
def State.advance (s : State) : State := s.setPc (s.pc + 2)

/-- A skip: `PC <- PC + 2` if the condition holds (R100). -/
def State.skipIf (s : State) (c : Bool) : State := if c then s.setPc (s.pc + 2) else s

/-- `DT <- b`. -/
def State.setDt (s : State) (b : Byte) : State := { s with dt := b }

/-- `ST <- b`. -/
def State.setSt (s : State) (b : Byte) : State := { s with st := b }

/-! ### The stack (R26) -/

/-- A push: `STACK[SP] <- w; SP <- SP + 1`; at depth 16, `StackOverflow` (R193). -/
def State.push (s : State) (w : Word) : Except Cause State :=
  if h : s.sp.val < 16 then
    .ok { s with stack := s.stack.set s.sp.val w, sp := ⟨s.sp.val + 1, by omega⟩ }
  else .error .stackOverflow

/-- A pop: `SP <- SP - 1; value = STACK[SP]`; at depth 0, `StackUnderflow` (R194). The entry keeps its bits. -/
def State.pop (s : State) : Except Cause (Word × State) :=
  if h : 0 < s.sp.val then
    .ok (s.stack[s.sp.val - 1]'(by omega), { s with sp := ⟨s.sp.val - 1, by omega⟩ })
  else .error .stackUnderflow

/-! ### The keypad (R30) -/

/-- `KEY[k]` for a key index held in a register: above 15, `KeyIndexOutOfRange` (R160, R197). -/
def State.keyAt (s : State) (k : Byte) : Except Cause Bool :=
  if h : k.toNat < 16 then .ok s.key[k.toNat] else .error (.keyIndexOutOfRange k)

/-- `KEY[k] <- pressed`. -/
def State.setKeyAt (s : State) (k : Fin 16) (pressed : Bool) : State :=
  { s with key := s.key.set k.val pressed }

/-- The keys pressed now, ascending: `P` of R163. -/
def State.pressedKeys (s : State) : List (Fin 16) := (List.finRange 16).filter fun k => s.key[k.val]

/-- `pick(P)` of R163; none when `P` is empty. With one key pressed all settings agree; with several, `lowest` takes
the first, `highest` the last, and `any` the one that the drawn choice falls on. -/
def pickKey (pick : KeywaitPick) (choice : Nat) : List (Fin 16) → Option (Fin 16)
  | [] => none
  | [k] => some k
  | k :: l :: ks =>
    match pick with
    | .lowest => some k
    | .highest => some ((l :: ks).getLastD k)
    | .any => (k :: l :: ks)[choice % (k :: l :: ks).length]?

/-- A draw was taken: the next one is fresh (R132: "independently at every executed `Cxnn`"). -/
def State.redraw (s : State) : State :=
  { s with rnd := Config.rnd (s.draws + 1), choice := Config.choice (s.draws + 1), draws := s.draws + 1 }

/-! ### The framebuffer (R29, R150) -/

/-- `FB[k]`. -/
def State.pixel (s : State) (k : Nat) : Bool := s.fb.getLsbD k

/-- The index of the pixel in column `px`, row `py`, both taken modulo the screen's size: `px + 64*py` (R29, R150). -/
def pixelIndex (px py : Nat) : Nat := px % 64 + 64 * (py % 32)

/-- The indices that the set bits of row `r` of a sprite land on, drawn from `(vx, vy)`; bit `7 - c` of the row's byte
is column `c` (R150). -/
def rowPixels (vx vy r : Nat) (row : Byte) : List Nat :=
  ((List.range 8).filter fun c => row.getLsbD (7 - c)).map fun c => pixelIndex (vx + c) (vy + r)

/-- The indices that a sprite toggles, row by row from row `r` on (R152). -/
def spritePixels (vx vy : Nat) : Nat → List Byte → List Nat
  | _, [] => []
  | r, row :: rows => rowPixels vx vy r row ++ spritePixels vx vy (r + 1) rows

/-- The inner statements of R152's loop, for each index in turn: "if FB[k] = 1: collision <- 1", then
"FB[k] <- FB[k] ^ 1". -/
def toggle : List Nat → BitVec 2048 × Bool → BitVec 2048 × Bool
  | [], p => p
  | k :: ks, (fb, collision) => toggle ks (fb ^^^ BitVec.twoPow 2048 k, collision || fb.getLsbD k)

/-- `FB <- fb`. -/
def State.setFb (s : State) (fb : BitVec 2048) : State := { s with fb := fb }

/-! ### Faults (R190 to R203) -/

/-- `raise F(info)` (R195), for the state at the start of the STEP: every write of the STEP is discarded, and
`FAULT <- F(info)`. It is the only entry (R201); nothing returns from it but RESET (R202, HostOps.lean). -/
def State.raise (s : State) (c : Cause) : Result := .next { s with fault := some c }

/-- The end of a STEP that began in `s`: all its writes at once, or the fault it raised (R79, R195). -/
def State.commit (s : State) : Except Cause State → Result
  | .ok t => .next t
  | .error c => s.raise c

end Sys2Proof.Machine
end

