-- ==== Sys2Proof/Machine/Flags.lean ====
section
/-! DEFINITION. What the six flag-writing instructions write to `VF` (R21). -/

namespace Sys2Proof.Machine

/-- A flag as the byte that `VF` holds. -/
def flagByte (b : Bool) : Byte := if b then 1 else 0

/-- `8xy4`: 1 if the sum is above 255 (R127). -/
def carryFlag (a b : Byte) : Byte := flagByte (decide (a.toNat + b.toNat > 255))

/-- `8xy5` and `8xy7`, for `a - b`: 0 if `a < b`, else 1 (R128, R130). -/
def noBorrowFlag (a b : Byte) : Byte := flagByte (!decide (a.toNat < b.toNat))

/-- `8xy6`: "Vx & 1", the bit about to be shifted out (R129). -/
def lowBitFlag (a : Byte) : Byte := a &&& 1

/-- `8xyE`: "(Vx>>7)&1", the bit about to be shifted out (R131). -/
def highBitFlag (a : Byte) : Byte := (a >>> 7) &&& 1

/-- `Dxyn`: 1 if a set pixel was cleared (R152). -/
def collisionFlag (collision : Bool) : Byte := flagByte collision

end Sys2Proof.Machine
end

