-- ==== Sys2Proof/Machine/Operands.lean ====
section
/-! DEFINITION. The operand forms: immediates as they stand (R73), the effective address (R140), decimal digits (R144),
the glyph address (R143), the drawn byte (R132). -/

namespace Sys2Proof.Machine

/-- `zext_16(nnn)` (R73). -/
def zextAddr (nnn : BitVec 12) : Word := nnn.setWidth 16

/-- `zext_16(V[x])` (R109, R142). -/
def zextByte (b : Byte) : Word := b.setWidth 16

/-- The address of byte `k` of a data access: the natural number `I + k`, not reduced (R140). -/
def State.effAddr (s : State) (k : Nat) : Nat := s.i.toNat + k

/-- "decompose Vx into decimal digits (hundreds,tens,ones)" (R144). -/
def bcdDigits (b : Byte) : List Byte :=
  [BitVec.ofNat 8 (b.toNat / 100), BitVec.ofNat 8 (b.toNat / 10 % 10), BitVec.ofNat 8 (b.toNat % 10)]

/-- "font glyph base address": `5 * zext_16(b)`, the byte not masked (R143). -/
def glyphAddr (b : Byte) : Word := 5 * zextByte b

/-- `rnd & nn` (R132). -/
def maskedDraw (rnd nn : Byte) : Byte := rnd &&& nn

/-- A key index, zero-extended to 8 bits (R163). -/
def keyByte (k : Fin 16) : Byte := BitVec.ofNat 8 k.val

end Sys2Proof.Machine
end

