-- ==== Sys2Proof/Machine/Alu.lean ====
section
/-! DEFINITION. Register loads, the ALU and the random byte (spec 41_alu.md). The writes stand in the order of the
rule's statements, which decides the outcome when `x = F` (R120). -/

namespace Sys2Proof.Machine

/-- `LD Vx, nn` (R121). -/
def execLdImm (x : Reg) (nn : Byte) (s : State) : Result := .next (s.advance.setReg x nn)

/-- `ADD Vx, nn` (R122): no flag effect. -/
def execAddImm (x : Reg) (nn : Byte) (s : State) : Result := .next (s.advance.setReg x (s.reg x + nn))

/-- `LD Vx, Vy` (R123). -/
def execLdReg (x y : Reg) (s : State) : Result := .next (s.advance.setReg x (s.reg y))

/-- `OR Vx, Vy` (R124): no flag effect. -/
def execOrReg (x y : Reg) (s : State) : Result := .next (s.advance.setReg x (s.reg x ||| s.reg y))

/-- `AND Vx, Vy` (R125): no flag effect. -/
def execAndReg (x y : Reg) (s : State) : Result := .next (s.advance.setReg x (s.reg x &&& s.reg y))

/-- `XOR Vx, Vy` (R126): no flag effect. -/
def execXorReg (x y : Reg) (s : State) : Result := .next (s.advance.setReg x (s.reg x ^^^ s.reg y))

/-- `ADD Vx, Vy` (R127): the sum, then the carry. -/
def execAddReg (x y : Reg) (s : State) : Result :=
  .next ((s.advance.setReg x (s.reg x + s.reg y)).setReg VF (carryFlag (s.reg x) (s.reg y)))

/-- `SUB Vx, Vy` (R128): the difference, then the flag. -/
def execSub (x y : Reg) (s : State) : Result :=
  .next ((s.advance.setReg x (s.reg x - s.reg y)).setReg VF (noBorrowFlag (s.reg x) (s.reg y)))

/-- `SHR Vx` (R129): the flag, then the shift of what `Vx` holds by then. -/
def execShr (x _y : Reg) (s : State) : Result :=
  let t := s.advance.setReg VF (lowBitFlag (s.reg x))
  .next (t.setReg x (t.reg x >>> 1))

/-- `SUBN Vx, Vy` (R130): the difference the other way round, then the flag. -/
def execSubn (x y : Reg) (s : State) : Result :=
  .next ((s.advance.setReg x (s.reg y - s.reg x)).setReg VF (noBorrowFlag (s.reg y) (s.reg x)))

/-- `SHL Vx` (R131): the flag, then the shift of what `Vx` holds by then. -/
def execShl (x _y : Reg) (s : State) : Result :=
  let t := s.advance.setReg VF (highBitFlag (s.reg x))
  .next (t.setReg x (t.reg x <<< 1))

/-- `RND Vx, nn` (R132): uses up the byte drawn for it. -/
def execRnd (x : Reg) (nn : Byte) (s : State) : Result :=
  .next (s.advance.setReg x (maskedDraw s.rnd nn)).redraw

end Sys2Proof.Machine
end

