-- ==== Sys2Proof/Machine/Control.lean ====
section
/-! DEFINITION. Control transfer (spec 40_control.md). Each meaning takes the state at the start of the STEP, with
`PC = pc0`, and begins with the fetch's advance (R71). -/

namespace Sys2Proof.Machine

/-- `NOP` (R101): the machine does not stop and does not hold `PC`. -/
def execNop (s : State) : Result := .next s.advance

/-- `RET` (R102). -/
def execRet (s : State) : Result :=
  s.commit <|
    match s.advance.pop with
    | .error c => .error c
    | .ok (target, t) => .ok (t.setPc target)

/-- `JP nnn` (R103). -/
def execJp (nnn : BitVec 12) (s : State) : Result := .next (s.advance.setPc (zextAddr nnn))

/-- `CALL nnn` (R104): pushes the advanced `PC`, the address after the call. -/
def execCall (nnn : BitVec 12) (s : State) : Result :=
  s.commit <|
    match s.advance.push s.advance.pc with
    | .error c => .error c
    | .ok t => .ok (t.setPc (zextAddr nnn))

/-- `SE Vx, nn` (R105). -/
def execSeImm (x : Reg) (nn : Byte) (s : State) : Result := .next (s.advance.skipIf (s.reg x == nn))

/-- `SNE Vx, nn` (R106). -/
def execSneImm (x : Reg) (nn : Byte) (s : State) : Result := .next (s.advance.skipIf (s.reg x != nn))

/-- `SE Vx, Vy` (R107). -/
def execSeReg (x y : Reg) (s : State) : Result := .next (s.advance.skipIf (s.reg x == s.reg y))

/-- `SNE Vx, Vy` (R108). -/
def execSneReg (x y : Reg) (s : State) : Result := .next (s.advance.skipIf (s.reg x != s.reg y))

/-- `JP V0, nnn` (R109): the sum is not reduced modulo 4096. -/
def execJpV0 (nnn : BitVec 12) (s : State) : Result :=
  .next (s.advance.setPc (zextByte (s.reg 0) + zextAddr nnn))

end Sys2Proof.Machine
end

