-- ==== Sys2Proof/Machine/Display.lean ====
section
/-! DEFINITION. The framebuffer blitter (spec 43_display.md). -/

namespace Sys2Proof.Machine

/-- `CLS` (R151). -/
def execCls (s : State) : Result := .next (s.advance.setFb 0)

/-- `DRW Vx, Vy, n` (R152): the origin is sampled before `VF` is written; `VF` is written once, at the end. -/
def execDrw (x y : Reg) (n : Fin 16) (s : State) : Result :=
  s.commit <|
    match s.advance.readBytes (s.effAddr 0) n.val with
    | .error c => .error c
    | .ok rows =>
      let (fb, collision) := toggle (spritePixels (s.reg x).toNat (s.reg y).toNat 0 rows) (s.fb, false)
      .ok ((s.advance.setFb fb).setReg VF (collisionFlag collision))

end Sys2Proof.Machine
end

