-- ==== Sys2Proof/Machine/IndexMemory.lean ====
section
/-! DEFINITION. The index register, loads and stores (spec 42_index_memory.md). None of the accesses writes `I`
(R140). -/

namespace Sys2Proof.Machine

/-- `LD I, nnn` (R141). -/
def execLdI (nnn : BitVec 12) (s : State) : Result := .next (s.advance.setI (zextAddr nnn))

/-- `ADD I, Vx` (R142): wraps at 16 bits; no flag effect. -/
def execAddI (x : Reg) (s : State) : Result := .next (s.advance.setI (s.i + zextByte (s.reg x)))

/-- `LD F, Vx` (R143). -/
def execLdF (x : Reg) (s : State) : Result := .next (s.advance.setI (glyphAddr (s.reg x)))

/-- `LD B, Vx` (R144). -/
def execLdB (x : Reg) (s : State) : Result :=
  s.commit (s.advance.writeBytes (s.effAddr 0) (bcdDigits (s.reg x)))

/-- `LD [I], Vx` (R145). -/
def execLdMemVx (x : Reg) (s : State) : Result :=
  s.commit (s.advance.writeBytes (s.effAddr 0) (s.regsUpTo x))

/-- `LD Vx, [I]` (R146). -/
def execLdVxMem (x : Reg) (s : State) : Result :=
  s.commit <|
    match s.advance.readBytes (s.effAddr 0) (x.val + 1) with
    | .error c => .error c
    | .ok bytes => .ok (s.advance.setRegs bytes)

end Sys2Proof.Machine
end

