-- ==== Sys2Proof/Machine/KeypadTimers.lean ====
section
/-! DEFINITION. Keypad and timer instructions (spec 44_keypad_timers.md). -/

namespace Sys2Proof.Machine

/-- `SKP Vx` (R160). -/
def execSkp (x : Reg) (s : State) : Result :=
  s.commit <|
    match s.keyAt (s.reg x) with
    | .error c => .error c
    | .ok pressed => .ok (s.advance.skipIf pressed)

/-- `SKNP Vx` (R161). -/
def execSknp (x : Reg) (s : State) : Result :=
  s.commit <|
    match s.keyAt (s.reg x) with
    | .error c => .error c
    | .ok pressed => .ok (s.advance.skipIf !pressed)

/-- `LD Vx, DT` (R162). -/
def execLdVxDT (x : Reg) (s : State) : Result := .next (s.advance.setReg x s.dt)

/-- `LD Vx, K` (R163): with no key pressed `PC` is rewound; else the picked key's index is loaded, and the choice drawn
for it is used up. -/
def execLdVxK (x : Reg) (s : State) : Result :=
  match pickKey s.params.keywaitPick s.choice s.pressedKeys with
  | none => .next (s.advance.setPc (s.advance.pc - 2))
  | some k => .next (s.advance.setReg x (keyByte k)).redraw

/-- `LD DT, Vx` (R164). -/
def execLdDTVx (x : Reg) (s : State) : Result := .next (s.advance.setDt (s.reg x))

/-- `LD ST, Vx` (R165). -/
def execLdSTVx (x : Reg) (s : State) : Result := .next (s.advance.setSt (s.reg x))

end Sys2Proof.Machine
end

