-- ==== Sys2Proof/Machine/Step.lean ====
section
/-! DEFINITION. One STEP (R79, R172), and the state in which a given word is the next instruction. -/

namespace Sys2Proof.Machine

/-- STEP (R79). The checks stand in the order of R200: `FAULT` already set, the fetch, the decode, then the
instruction's own. -/
def step (s : State) : Host.Outcome State Fault Refusal :=
  match s.fault with
  | some _ => .next s
  | none =>
    match s.fetch with
    | .error c => s.raise c
    | .ok op =>
      match decodeWord op with
      | none => s.raise (.unimplementedOpcode op)
      | some i => exec i s

/-- `s` with `b` at memory address `a`. -/
def State.withByte (s : State) (a : Nat) (b : Byte) : State :=
  { s with mem := Memory.write s.params s.mem a b }

/-- `s` with a word of the opcode table stored where `step` fetches next: at `PC`, high byte first (R60). A fetch needs
`FAULT = None` and `PC <= 0xFFE`, so the latch is cleared, and a `PC` at which no fetch is possible is set to 0x200. -/
def State.withFetchWord (s : State) (nbits w : Nat) : State :=
  let op : Word := BitVec.ofNat 16 (w % 2 ^ nbits)
  let pc : Word := if s.pc.toNat ≤ 0xFFE then s.pc else 0x200
  (({ s with fault := none, pc := pc }.withByte pc.toNat (highByte op)).withByte (pc.toNat + 1) (lowByte op))

end Sys2Proof.Machine
end

