-- ==== Sys2Proof/Machine/HostOps.lean ====
section
/-! DEFINITION. The operations of the host (spec 45_host_operations.md, 70_reset_and_hazards.md): everything that
happens to the core. They are atomic, and the host issues them in any order (R171). -/

namespace Sys2Proof.Machine

/-- The recoverable errors that LOAD and SET_KEY return (R190, R198). -/
inductive HostError where
  /-- LOAD of an image longer than 3584 bytes (R175). -/
  | loadOverflow (len : Nat)
  /-- SET_KEY with an index above 15 (R174). -/
  | keyIndexError (index : Nat)
deriving DecidableEq, Repr

/-- The operations of R170, with their arguments. -/
inductive HostOp where
  | reset
  | load (bytes : List Byte)
  | step (rnd : Byte) (choice : Nat)
  | tickTimers
  | setKey (index : Nat) (pressed : Bool)
  | framebuffer
  | soundActive
  | faultStatus
deriving DecidableEq, Repr

/-- What an operation answers (R170): nothing, ok, an error, or the value read. -/
inductive Reply where
  | none
  | ok
  | error (e : HostError)
  | pixels (fb : BitVec 2048)
  | bit (b : Bool)
  | status (fault : Option Cause)
deriving DecidableEq, Repr

/-- The codes of the faults (R190; D4: labels only). -/
def Cause.code : Cause → Nat
  | .fetchOutOfBounds _ => 1
  | .unimplementedOpcode _ => 2
  | .stackOverflow => 3
  | .stackUnderflow => 4
  | .memoryOutOfBounds _ => 5
  | .keyIndexOutOfRange _ => 6

/-- The codes of the errors (R190; D4: labels only). -/
def HostError.code : HostError → Nat
  | .loadOverflow _ => 7
  | .keyIndexError _ => 8

/-- RESET (R210): every component to its reset value, in any state, a faulted one included. The parameters and the
draws are no state of the core, and stay. -/
def State.resetOp (s : State) : State := State.resetWith s.params s.rnd s.choice s.draws

/-- LOAD (R175). -/
def State.loadOp (s : State) (bytes : List Byte) : State × Reply :=
  if s.fault.isSome then (s, .ok)
  else if imageFits bytes then ({ s with mem := Memory.writeList s.params s.mem 0x200 bytes }, .ok)
  else (s, .error (.loadOverflow bytes.length))

/-- STEP with its drawn inputs (R170, R172). A `step` of this model always answers a next state. -/
def State.stepOp (s : State) (rnd : Byte) (choice : Nat) : State :=
  if s.fault.isSome then s
  else
    match step { s with rnd := rnd, choice := choice } with
    | .next t => t
    | .fault _ => s
    | .refused _ => s

/-- One timer's countdown, with its floor at 0 (R173). -/
def countDown (b : Byte) : Byte := if b.toNat > 0 then b - 1 else b

/-- TICK_TIMERS (R173). -/
def State.tickOp (s : State) : State :=
  if s.fault.isSome then s else { s with dt := countDown s.dt, st := countDown s.st }

/-- SET_KEY (R174). -/
def State.setKeyOp (s : State) (index : Nat) (pressed : Bool) : State × Reply :=
  if s.fault.isSome then (s, .ok)
  else if keyIndexOk index then (s.setKeyAt (Fin.ofNat 16 index) pressed, .ok)
  else (s, .error (.keyIndexError index))

/-- `SOUND_ACTIVE = (ST != 0)` (R28, R177). -/
def State.soundActive (s : State) : Bool := s.st != 0

/-- One operation of the host: the state it leaves and what it answers (R170). -/
def State.hostOp (s : State) : HostOp → State × Reply
  | .reset => (s.resetOp, .none)
  | .load bytes => s.loadOp bytes
  | .step rnd choice => (s.stepOp rnd choice, .none)
  | .tickTimers => (s.tickOp, .none)
  | .setKey index pressed => s.setKeyOp index pressed
  | .framebuffer => (s, .pixels s.fb)
  | .soundActive => (s, .bit s.soundActive)
  | .faultStatus => (s, .status s.fault)

/-- A sequence of operations, in the host's order (R171). -/
def State.hostRun (s : State) (ops : List HostOp) : State :=
  ops.foldl (fun t op => (t.hostOp op).1) s

end Sys2Proof.Machine
end

