-- ==== Sys2Proof/Safety.lean ====
section
/-! DEFINITION. The terms that the statements use: components of the state and frames over them, which components an
instruction may write and which fault it may raise, and the invariants of the machine. -/

namespace Sys2Proof

open Machine

/-- A component of the state, as small as the rules name them (R20 to R32), and the model's own fields. -/
inductive Component where
  | v (x : Reg)
  | i
  | pc
  | sp
  | stack (k : Fin 16)
  | dt
  | st
  | pixel (k : Nat)
  | key (k : Fin 16)
  | byte (a : Nat)
  | fault
  | params
  | draw
deriving DecidableEq, Repr

/-- Component `c` is the same in both states. -/
def Component.same (s t : State) : Component → Prop
  | .v x => t.reg x = s.reg x
  | .i => t.i = s.i
  | .pc => t.pc = s.pc
  | .sp => t.sp = s.sp
  | .stack k => t.stack[k.val] = s.stack[k.val]
  | .dt => t.dt = s.dt
  | .st => t.st = s.st
  | .pixel k => t.pixel k = s.pixel k
  | .key k => t.key[k.val] = s.key[k.val]
  | .byte a => t.byteAt a = s.byteAt a
  | .fault => t.fault = s.fault
  | .params => t.params = s.params
  | .draw => t.rnd = s.rnd ∧ t.choice = s.choice ∧ t.draws = s.draws

/-- The frame: every component outside `written` is the same in `t` as in `s`. -/
def SameBut (s t : State) (written : Component → Prop) : Prop :=
  ∀ c, ¬ written c → c.same s t

/-- The bytes that the store of a form writes, from the effective address of its byte 0 on (R62, R140). -/
def storedAt (s : State) (len : Nat) : Component → Prop
  | .byte a => s.effAddr 0 ≤ a ∧ a < s.effAddr 0 + len
  | .v _ | .i | .pc | .sp | .stack _ | .dt | .st | .pixel _ | .key _ | .fault | .params | .draw => False

/-- The components that an instruction may write when it raises no fault (R34, with the model's own `draw` for a draw
that the instruction takes). -/
def Instr.writes (i : Instr) (s : State) (c : Component) : Prop :=
  c = .pc ∨
  match i with
  | .nop | .jp _ | .jpV0 _ => False
  | .seImm _ _ | .sneImm _ _ | .seReg _ _ | .sneReg _ _ | .skp _ | .sknp _ => False
  | .cls => ∃ k, c = .pixel k
  | .ret => c = .sp
  | .call _ => c = .sp ∨ ∃ k : Fin 16, k.val = s.sp.val ∧ c = .stack k
  | .ldImm x _ | .addImm x _ | .ldReg x _ | .orReg x _ | .andReg x _ | .xorReg x _ | .ldVxDT x => c = .v x
  | .addReg x _ | .sub x _ | .shr x _ | .subn x _ | .shl x _ => c = .v x ∨ c = .v VF
  | .ldI _ | .addI _ | .ldF _ => c = .i
  | .rnd x _ | .ldVxK x => c = .v x ∨ c = .draw
  | .drw _ _ _ => c = .v VF ∨ ∃ k, c = .pixel k
  | .ldDTVx _ => c = .dt
  | .ldSTVx _ => c = .st
  | .ldB _ => storedAt s 3 c
  | .ldMemVx x => storedAt s (x.val + 1) c
  | .ldVxMem x => ∃ k : Reg, k ≤ x ∧ c = .v k

/-- The fault that an instruction can raise in a state, with its condition (R190, R200): at most one. -/
def Instr.mayRaise (i : Instr) (s : State) : Option Cause :=
  match i with
  | .call _ => if s.sp.val = 16 then some .stackOverflow else none
  | .ret => if s.sp.val = 0 then some .stackUnderflow else none
  | .drw _ _ n =>
    if 1 ≤ n.val ∧ s.i.toNat + n.val - 1 > 0xFFF then some (.memoryOutOfBounds (max s.i.toNat 0x1000)) else none
  | .ldB _ => if s.i.toNat + 2 > 0xFFF then some (.memoryOutOfBounds (max s.i.toNat 0x1000)) else none
  | .ldMemVx x | .ldVxMem x =>
    if s.i.toNat + x.val > 0xFFF then some (.memoryOutOfBounds (max s.i.toNat 0x1000)) else none
  | .skp x | .sknp x => if (s.reg x).toNat > 15 then some (.keyIndexOutOfRange (s.reg x)) else none
  | .nop | .cls | .jp _ | .jpV0 _ | .seImm _ _ | .sneImm _ _ | .seReg _ _ | .sneReg _ _ => none
  | .ldImm _ _ | .addImm _ _ | .ldReg _ _ | .orReg _ _ | .andReg _ _ | .xorReg _ _ => none
  | .addReg _ _ | .sub _ _ | .shr _ _ | .subn _ _ | .shl _ _ | .rnd _ _ => none
  | .ldI _ | .addI _ | .ldF _ | .ldVxDT _ | .ldVxK _ | .ldDTVx _ | .ldSTVx _ => none

/-- The sprite of `Dxyn` has a 1 bit that lands on column `px`, row `py` (R150): bit `7 - c` of the byte at `I + r`,
with wrap-around on both axes. -/
def SpriteCovers (x y : Reg) (n : Fin 16) (s : State) (px py : Nat) : Prop :=
  ∃ r c, r < n.val ∧ c < 8 ∧ (s.byteAt (s.effAddr r)).getLsbD (7 - c) = true ∧
    px = ((s.reg x).toNat + c) % 64 ∧ py = ((s.reg y).toNat + r) % 32

/-- A run goes on safely: no fault is latched (R203: a faulted state is no final state of a program). -/
def Safe (s : State) : Prop := s.fault = none

/-- Memory is in its canonical form: the model's own (log entry 4, DESIGN CHOICE). -/
def MemoryInv (s : State) : Prop := Memory.wf s.params s.mem = true

/-- The bounds of R24: `PC` is at most 0x10FE, and every stack entry in use is at most 0x1000. -/
def PcInv (s : State) : Prop :=
  s.pc.toNat ≤ 0x10FE ∧ ∀ k : Fin 16, k.val < s.sp.val → s.stack[k.val].toNat ≤ 0x1000

end Sys2Proof
end

