-- ==== Sys2Proof/Certificates/Slice0/Obligations.lean ====
section
/-! DEFINITION. The statements for the provers. Each docstring names the rules of spec/ that it formalises.

`exec i s` is the execute part of a STEP that begins in `s` (`PC = pc0`), fetch advance included; `t` is the state that
the STEP leaves. `SameBut s t W` is the frame: everything outside `W` is the same in `t` as in `s`. -/

open Sys2Proof Sys2Proof.Machine

/-! ### Control transfer -/

/-- R101. `0000` is the only NOP, it advances `PC` by 2 and changes nothing else; 0x0001 to 0x00DF are unimplemented. -/
def Obligations.NopOnlyAdvances : Prop :=
  decodeWord 0x0000 = some .nop ∧
  (∀ op, decodeWord op = some .nop → op = 0x0000) ∧
  (∀ op : Word, 0x0001 ≤ op.toNat → op.toNat ≤ 0x00DF → decodeWord op = none) ∧
  ∀ s : State, ∃ t, exec .nop s = .next t ∧ t.pc = s.pc + 2 ∧ SameBut s t (· = .pc)

/-- R102. `00EE` pops the top stack entry into `PC` and keeps the entry's bits; with `SP = 0` it raises
`StackUnderflow`. -/
def Obligations.RetPopsTopEntry : Prop :=
  decodeWord 0x00EE = some .ret ∧
  (∀ (s : State) (k : Fin 16), k.val + 1 = s.sp.val →
    ∃ t, exec .ret s = .next t ∧ t.pc = s.stack[k.val] ∧ t.sp.val = k.val ∧
      SameBut s t (fun c => c = .pc ∨ c = .sp)) ∧
  ∀ s : State, s.sp.val = 0 → exec .ret s = .next { s with fault := some .stackUnderflow }

/-- R103. `1nnn` sets `PC` to exactly `nnn` and changes nothing else; a jump to itself leaves the state as it is. -/
def Obligations.JpSetsPc : Prop :=
  ∀ nnn : BitVec 12,
    decodeWord (BitVec.ofNat 16 (0x1000 + nnn.toNat)) = some (.jp nnn) ∧
    (∀ s : State, ∃ t, exec (.jp nnn) s = .next t ∧ t.pc.toNat = nnn.toNat ∧ SameBut s t (· = .pc)) ∧
    ∀ s : State, s.pc.toNat = nnn.toNat → exec (.jp nnn) s = .next s

/-- R104. `2nnn` pushes the address after the call and jumps, at every depth below 16; at depth 16 it raises
`StackOverflow`. -/
def Obligations.CallPushesAndJumps : Prop :=
  ∀ nnn : BitVec 12,
    decodeWord (BitVec.ofNat 16 (0x2000 + nnn.toNat)) = some (.call nnn) ∧
    (∀ (s : State) (k : Fin 16), k.val = s.sp.val →
      ∃ t, exec (.call nnn) s = .next t ∧ t.stack[k.val] = s.pc + 2 ∧ t.sp.val = k.val + 1 ∧
        t.pc.toNat = nnn.toNat ∧ SameBut s t (fun c => c = .pc ∨ c = .sp ∨ c = .stack k)) ∧
    ∀ s : State, s.sp.val = 16 → exec (.call nnn) s = .next { s with fault := some .stackOverflow }

/-- R105, R106. `3xnn` skips if `V[x] = nn`, `4xnn` if `V[x] != nn`; nothing but `PC` changes. -/
def Obligations.SkipsOnImmediate : Prop :=
  ∀ (x : Reg) (nn : Byte),
    decodeWord (BitVec.ofNat 16 (0x3000 + 0x100 * x.val + nn.toNat)) = some (.seImm x nn) ∧
    decodeWord (BitVec.ofNat 16 (0x4000 + 0x100 * x.val + nn.toNat)) = some (.sneImm x nn) ∧
    ∀ s : State,
      (∃ t, exec (.seImm x nn) s = .next t ∧ t.pc = (if s.reg x = nn then s.pc + 4 else s.pc + 2) ∧
        SameBut s t (· = .pc)) ∧
      ∃ t, exec (.sneImm x nn) s = .next t ∧ t.pc = (if s.reg x = nn then s.pc + 2 else s.pc + 4) ∧
        SameBut s t (· = .pc)

/-- R107, R108. `5xy0` skips if `V[x] = V[y]`, `9xy0` if `V[x] != V[y]`; nothing but `PC` changes; the words with
`d4 != 0` are unimplemented. -/
def Obligations.SkipsOnRegister : Prop :=
  ∀ (x y : Reg),
    (∀ n : Fin 16, decodeWord (BitVec.ofNat 16 (0x5000 + 0x100 * x.val + 0x10 * y.val + n.val)) =
      if n = 0 then some (.seReg x y) else none) ∧
    (∀ n : Fin 16, decodeWord (BitVec.ofNat 16 (0x9000 + 0x100 * x.val + 0x10 * y.val + n.val)) =
      if n = 0 then some (.sneReg x y) else none) ∧
    ∀ s : State,
      (∃ t, exec (.seReg x y) s = .next t ∧ t.pc = (if s.reg x = s.reg y then s.pc + 4 else s.pc + 2) ∧
        SameBut s t (· = .pc)) ∧
      ∃ t, exec (.sneReg x y) s = .next t ∧ t.pc = (if s.reg x = s.reg y then s.pc + 2 else s.pc + 4) ∧
        SameBut s t (· = .pc)

/-- R109. `Bnnn` sets `PC` to the unreduced sum of `V[0]` and `nnn`. -/
def Obligations.JpV0AddsV0 : Prop :=
  ∀ nnn : BitVec 12,
    decodeWord (BitVec.ofNat 16 (0xB000 + nnn.toNat)) = some (.jpV0 nnn) ∧
    ∀ s : State, ∃ t, exec (.jpV0 nnn) s = .next t ∧ t.pc.toNat = (s.reg 0).toNat + nnn.toNat ∧ SameBut s t (· = .pc)

/-! ### Loads, the ALU, the random byte -/

/-- R121. `6xnn`: `V[x]` receives `nn`. -/
def Obligations.LdImmLoads : Prop :=
  ∀ (x : Reg) (nn : Byte),
    decodeWord (BitVec.ofNat 16 (0x6000 + 0x100 * x.val + nn.toNat)) = some (.ldImm x nn) ∧
    ∀ s : State, ∃ t, exec (.ldImm x nn) s = .next t ∧ t.pc = s.pc + 2 ∧ t.reg x = nn ∧
      SameBut s t (fun c => c = .pc ∨ c = .v x)

/-- R122. `7xnn`: the sum modulo 256, and no flag, whatever the sum (`VF` changes only as the destination). -/
def Obligations.AddImmWraps : Prop :=
  ∀ (x : Reg) (nn : Byte),
    decodeWord (BitVec.ofNat 16 (0x7000 + 0x100 * x.val + nn.toNat)) = some (.addImm x nn) ∧
    ∀ s : State, ∃ t, exec (.addImm x nn) s = .next t ∧ t.pc = s.pc + 2 ∧
      (t.reg x).toNat = ((s.reg x).toNat + nn.toNat) % 256 ∧ SameBut s t (fun c => c = .pc ∨ c = .v x)

/-- R123. `8xy0`: `V[x]` receives `V[y]`. -/
def Obligations.LdRegCopies : Prop :=
  ∀ (x y : Reg),
    decodeWord (BitVec.ofNat 16 (0x8000 + 0x100 * x.val + 0x10 * y.val)) = some (.ldReg x y) ∧
    ∀ s : State, ∃ t, exec (.ldReg x y) s = .next t ∧ t.pc = s.pc + 2 ∧ t.reg x = s.reg y ∧
      SameBut s t (fun c => c = .pc ∨ c = .v x)

/-- R124, R125, R126. The three logic rows, bit by bit; `VF` is not written as a flag. -/
def Obligations.LogicRows : Prop :=
  ∀ (x y : Reg),
    decodeWord (BitVec.ofNat 16 (0x8001 + 0x100 * x.val + 0x10 * y.val)) = some (.orReg x y) ∧
    decodeWord (BitVec.ofNat 16 (0x8002 + 0x100 * x.val + 0x10 * y.val)) = some (.andReg x y) ∧
    decodeWord (BitVec.ofNat 16 (0x8003 + 0x100 * x.val + 0x10 * y.val)) = some (.xorReg x y) ∧
    ∀ s : State,
      (∃ t, exec (.orReg x y) s = .next t ∧ t.pc = s.pc + 2 ∧
        (∀ k, (t.reg x).getLsbD k = ((s.reg x).getLsbD k || (s.reg y).getLsbD k)) ∧
        SameBut s t (fun c => c = .pc ∨ c = .v x)) ∧
      (∃ t, exec (.andReg x y) s = .next t ∧ t.pc = s.pc + 2 ∧
        (∀ k, (t.reg x).getLsbD k = ((s.reg x).getLsbD k && (s.reg y).getLsbD k)) ∧
        SameBut s t (fun c => c = .pc ∨ c = .v x)) ∧
      ∃ t, exec (.xorReg x y) s = .next t ∧ t.pc = s.pc + 2 ∧
        (∀ k, (t.reg x).getLsbD k = ((s.reg x).getLsbD k ^^ (s.reg y).getLsbD k)) ∧
        SameBut s t (fun c => c = .pc ∨ c = .v x)

/-- R127. `8xy4`: `VF` is the carry, for every `x`; `V[x]` is the sum modulo 256 unless `x = F`, where the carry
overwrites it (the spec's decision D9). -/
def Obligations.AddRegSetsCarry : Prop :=
  ∀ (x y : Reg),
    decodeWord (BitVec.ofNat 16 (0x8004 + 0x100 * x.val + 0x10 * y.val)) = some (.addReg x y) ∧
    ∀ s : State, ∃ t, exec (.addReg x y) s = .next t ∧ t.pc = s.pc + 2 ∧
      t.reg VF = (if (s.reg x).toNat + (s.reg y).toNat > 255 then 1 else 0) ∧
      (x ≠ VF → (t.reg x).toNat = ((s.reg x).toNat + (s.reg y).toNat) % 256) ∧
      SameBut s t (fun c => c = .pc ∨ c = .v x ∨ c = .v VF)

/-- R128. `8xy5`: `VF` is 0 iff `V[x] < V[y]`, for every `x`; `V[x]` is the difference modulo 256 unless `x = F`. -/
def Obligations.SubSetsNoBorrow : Prop :=
  ∀ (x y : Reg),
    decodeWord (BitVec.ofNat 16 (0x8005 + 0x100 * x.val + 0x10 * y.val)) = some (.sub x y) ∧
    ∀ s : State, ∃ t, exec (.sub x y) s = .next t ∧ t.pc = s.pc + 2 ∧
      t.reg VF = (if (s.reg x).toNat < (s.reg y).toNat then 0 else 1) ∧
      (x ≠ VF → ((t.reg x).toNat : Int) = ((s.reg x).toNat - (s.reg y).toNat : Int) % 256) ∧
      SameBut s t (fun c => c = .pc ∨ c = .v x ∨ c = .v VF)

/-- R130. `8xy7`: as `8xy5` with the operands exchanged; the destination is still `V[x]`. -/
def Obligations.SubnSetsNoBorrow : Prop :=
  ∀ (x y : Reg),
    decodeWord (BitVec.ofNat 16 (0x8007 + 0x100 * x.val + 0x10 * y.val)) = some (.subn x y) ∧
    ∀ s : State, ∃ t, exec (.subn x y) s = .next t ∧ t.pc = s.pc + 2 ∧
      t.reg VF = (if (s.reg y).toNat < (s.reg x).toNat then 0 else 1) ∧
      (x ≠ VF → ((t.reg x).toNat : Int) = ((s.reg y).toNat - (s.reg x).toNat : Int) % 256) ∧
      SameBut s t (fun c => c = .pc ∨ c = .v x ∨ c = .v VF)

/-- R129, and R78 for this row. `8xy6`: `VF` is the bit shifted out and `V[x]` is halved; with `x = F`, `VF` ends 0. Every `y` selects
the instruction, and `V[y]` is neither read nor written. -/
def Obligations.ShrShiftsInPlace : Prop :=
  ∀ (x y : Reg),
    decodeWord (BitVec.ofNat 16 (0x8006 + 0x100 * x.val + 0x10 * y.val)) = some (.shr x y) ∧
    ∀ s : State, ∃ t, (∀ y', exec (.shr x y') s = .next t) ∧ t.pc = s.pc + 2 ∧
      (x ≠ VF → (t.reg VF).toNat = (s.reg x).toNat % 2 ∧ (t.reg x).toNat = (s.reg x).toNat / 2) ∧
      (x = VF → t.reg VF = 0) ∧
      SameBut s t (fun c => c = .pc ∨ c = .v x ∨ c = .v VF)

/-- R131, and R78 for this row. `8xyE`: `VF` is the bit shifted out and `V[x]` is doubled modulo 256; with `x = F`, `VF` ends as twice
its old bit 7. Every `y` selects the instruction, and `V[y]` is neither read nor written. -/
def Obligations.ShlShiftsInPlace : Prop :=
  ∀ (x y : Reg),
    decodeWord (BitVec.ofNat 16 (0x800E + 0x100 * x.val + 0x10 * y.val)) = some (.shl x y) ∧
    ∀ s : State, ∃ t, (∀ y', exec (.shl x y') s = .next t) ∧ t.pc = s.pc + 2 ∧
      (x ≠ VF → (t.reg VF).toNat = (s.reg x).toNat / 128 ∧ (t.reg x).toNat = 2 * (s.reg x).toNat % 256) ∧
      (x = VF → (t.reg VF).toNat = 2 * ((s.reg VF).toNat / 128)) ∧
      SameBut s t (fun c => c = .pc ∨ c = .v x ∨ c = .v VF)

/-- R132. `Cxnn`: `V[x]` is the drawn byte masked by `nn`, for every byte that may be drawn; the old `V[x]` does not
matter. The frame's `draw` is the model's own: the draw is used up (log entry 3). -/
def Obligations.RndMasksTheDraw : Prop :=
  ∀ (x : Reg) (nn : Byte),
    decodeWord (BitVec.ofNat 16 (0xC000 + 0x100 * x.val + nn.toNat)) = some (.rnd x nn) ∧
    ∀ (s : State) (rnd : Byte), ∃ t, exec (.rnd x nn) { s with rnd := rnd } = .next t ∧ t.pc = s.pc + 2 ∧
      (∀ k, (t.reg x).getLsbD k = (rnd.getLsbD k && nn.getLsbD k)) ∧
      SameBut s t (fun c => c = .pc ∨ c = .v x ∨ c = .draw)

/-! ### The index register, loads and stores -/

/-- R141. `Annn`: `I` receives `nnn`. -/
def Obligations.LdILoads : Prop :=
  ∀ nnn : BitVec 12,
    decodeWord (BitVec.ofNat 16 (0xA000 + nnn.toNat)) = some (.ldI nnn) ∧
    ∀ s : State, ∃ t, exec (.ldI nnn) s = .next t ∧ t.pc = s.pc + 2 ∧ t.i.toNat = nnn.toNat ∧
      SameBut s t (fun c => c = .pc ∨ c = .i)

/-- R142. `Fx1E`: the sum modulo 65536; `VF` is not written. -/
def Obligations.AddIWrapsAtSixteenBits : Prop :=
  ∀ x : Reg,
    decodeWord (BitVec.ofNat 16 (0xF01E + 0x100 * x.val)) = some (.addI x) ∧
    ∀ s : State, ∃ t, exec (.addI x) s = .next t ∧ t.pc = s.pc + 2 ∧
      t.i.toNat = (s.i.toNat + (s.reg x).toNat) % 65536 ∧ SameBut s t (fun c => c = .pc ∨ c = .i)

/-- R143. `Fx29`: `I` is five times the whole byte `V[x]`, not masked to a nibble. -/
def Obligations.LdFMultipliesByFive : Prop :=
  ∀ x : Reg,
    decodeWord (BitVec.ofNat 16 (0xF029 + 0x100 * x.val)) = some (.ldF x) ∧
    ∀ s : State, ∃ t, exec (.ldF x) s = .next t ∧ t.pc = s.pc + 2 ∧ t.i.toNat = 5 * (s.reg x).toNat ∧
      SameBut s t (fun c => c = .pc ∨ c = .i)

/-- R144. `Fx33`: hundreds, tens and ones at `I`, `I + 1`, `I + 2`; past 0xFFF it raises `MemoryOutOfBounds` and writes
nothing. -/
def Obligations.LdBStoresDigits : Prop :=
  ∀ x : Reg,
    decodeWord (BitVec.ofNat 16 (0xF033 + 0x100 * x.val)) = some (.ldB x) ∧
    (∀ s : State, s.i.toNat + 2 ≤ 0xFFF →
      ∃ t, exec (.ldB x) s = .next t ∧ t.pc = s.pc + 2 ∧
        (t.byteAt (s.effAddr 0)).toNat = (s.reg x).toNat / 100 ∧
        (t.byteAt (s.effAddr 1)).toNat = (s.reg x).toNat / 10 % 10 ∧
        (t.byteAt (s.effAddr 2)).toNat = (s.reg x).toNat % 10 ∧
        SameBut s t (fun c => c = .pc ∨ storedAt s 3 c)) ∧
    ∀ s : State, s.i.toNat + 2 > 0xFFF →
      exec (.ldB x) s = .next { s with fault := some (.memoryOutOfBounds (max s.i.toNat 0x1000)) }

/-- R145. `Fx55`: `V[0]` to `V[x]` at `I` upward, and no other byte; past 0xFFF it raises `MemoryOutOfBounds` and writes
nothing. -/
def Obligations.LdMemVxStoresRegisters : Prop :=
  ∀ x : Reg,
    decodeWord (BitVec.ofNat 16 (0xF055 + 0x100 * x.val)) = some (.ldMemVx x) ∧
    (∀ s : State, s.i.toNat + x.val ≤ 0xFFF →
      ∃ t, exec (.ldMemVx x) s = .next t ∧ t.pc = s.pc + 2 ∧
        (∀ k : Reg, k ≤ x → t.byteAt (s.effAddr k.val) = s.reg k) ∧
        SameBut s t (fun c => c = .pc ∨ storedAt s (x.val + 1) c)) ∧
    ∀ s : State, s.i.toNat + x.val > 0xFFF →
      exec (.ldMemVx x) s = .next { s with fault := some (.memoryOutOfBounds (max s.i.toNat 0x1000)) }

/-- R146. `Fx65`: `V[0]` to `V[x]` from `I` upward, and no other register; past 0xFFF it raises `MemoryOutOfBounds` and
changes no register. -/
def Obligations.LdVxMemLoadsRegisters : Prop :=
  ∀ x : Reg,
    decodeWord (BitVec.ofNat 16 (0xF065 + 0x100 * x.val)) = some (.ldVxMem x) ∧
    (∀ s : State, s.i.toNat + x.val ≤ 0xFFF →
      ∃ t, exec (.ldVxMem x) s = .next t ∧ t.pc = s.pc + 2 ∧
        (∀ k : Reg, k ≤ x → t.reg k = s.byteAt (s.effAddr k.val)) ∧
        SameBut s t (fun c => c = .pc ∨ ∃ k : Reg, k ≤ x ∧ c = .v k)) ∧
    ∀ s : State, s.i.toNat + x.val > 0xFFF →
      exec (.ldVxMem x) s = .next { s with fault := some (.memoryOutOfBounds (max s.i.toNat 0x1000)) }

/-- S9 of spec 95_test_vectors.md, R145 and R146: storing `V[0]` to `V[x]`, then loading them in any state that reads
the same memory at the same `I`, gives the stored registers back. -/
def Obligations.DumpThenLoadRestores : Prop :=
  ∀ (x : Reg) (s t u : State), s.i.toNat + x.val ≤ 0xFFF → exec (.ldMemVx x) s = .next t →
    u.i = t.i → (∀ a, u.byteAt a = t.byteAt a) →
    ∃ w, exec (.ldVxMem x) u = .next w ∧ ∀ k : Reg, k ≤ x → w.reg k = s.reg k

/-! ### The display -/

/-- R151. `00E0` clears all 2048 pixels and changes nothing else. -/
def Obligations.ClsClearsScreen : Prop :=
  decodeWord 0x00E0 = some .cls ∧
  ∀ s : State, ∃ t, exec .cls s = .next t ∧ t.pc = s.pc + 2 ∧ (∀ k, t.pixel k = false) ∧
    SameBut s t (fun c => c = .pc ∨ ∃ k, c = .pixel k)

/-- R150, R152. `Dxyn`: a pixel flips exactly where the sprite, drawn from the origin that `V[x]` and `V[y]` held before,
has a 1 bit; `VF` is 1 iff one of those pixels was set, else 0, also when nothing is drawn; a row outside memory raises
`MemoryOutOfBounds` and draws nothing. -/
def Obligations.DrwFlipsSpritePixels : Prop :=
  ∀ (x y : Reg) (n : Fin 16),
    decodeWord (BitVec.ofNat 16 (0xD000 + 0x100 * x.val + 0x10 * y.val + n.val)) = some (.drw x y n) ∧
    (∀ s : State, (n.val = 0 ∨ s.i.toNat + n.val - 1 ≤ 0xFFF) →
      ∃ t, exec (.drw x y n) s = .next t ∧ t.pc = s.pc + 2 ∧
        (∀ px py, px < 64 → py < 32 →
          (t.pixel (px + 64 * py) ≠ s.pixel (px + 64 * py) ↔ SpriteCovers x y n s px py)) ∧
        ((∃ px py, px < 64 ∧ py < 32 ∧ s.pixel (px + 64 * py) = true ∧ SpriteCovers x y n s px py) →
          t.reg VF = 1) ∧
        ((∀ px py, px < 64 → py < 32 → s.pixel (px + 64 * py) = true → ¬ SpriteCovers x y n s px py) →
          t.reg VF = 0) ∧
        SameBut s t (fun c => c = .pc ∨ c = .v VF ∨ ∃ k, c = .pixel k)) ∧
    ∀ s : State, 1 ≤ n.val → s.i.toNat + n.val - 1 > 0xFFF →
      exec (.drw x y n) s = .next { s with fault := some (.memoryOutOfBounds (max s.i.toNat 0x1000)) }

/-- R152's corner case: "Drawing the same sprite twice at the same place restores the framebuffer and sets VF = 1 if the
sprite has any 1 bit that was drawn onto a clear pixel the first time", where the origin's registers are not the flag
register. -/
def Obligations.DrawingTwiceRestores : Prop :=
  ∀ (x y : Reg) (n : Fin 16) (s t u : State), x ≠ VF → y ≠ VF → s.i.toNat + n.val ≤ 0x1000 →
    exec (.drw x y n) s = .next t → exec (.drw x y n) t = .next u →
    u.fb = s.fb ∧
    ((∃ px py, px < 64 ∧ py < 32 ∧ s.pixel (px + 64 * py) = false ∧ SpriteCovers x y n s px py) → u.reg VF = 1)

/-! ### The keypad and the timers -/

/-- R160, R161. `Ex9E` skips if the key that `V[x]` names is pressed, `ExA1` if it is not; a value above 15 raises
`KeyIndexOutOfRange`. -/
def Obligations.SkipsOnKey : Prop :=
  ∀ x : Reg,
    decodeWord (BitVec.ofNat 16 (0xE09E + 0x100 * x.val)) = some (.skp x) ∧
    decodeWord (BitVec.ofNat 16 (0xE0A1 + 0x100 * x.val)) = some (.sknp x) ∧
    (∀ (s : State) (k : Fin 16), (s.reg x).toNat = k.val →
      (∃ t, exec (.skp x) s = .next t ∧ t.pc = (if s.key[k.val] = true then s.pc + 4 else s.pc + 2) ∧
        SameBut s t (· = .pc)) ∧
      ∃ t, exec (.sknp x) s = .next t ∧ t.pc = (if s.key[k.val] = true then s.pc + 2 else s.pc + 4) ∧
        SameBut s t (· = .pc)) ∧
    ∀ s : State, (s.reg x).toNat > 15 →
      exec (.skp x) s = .next { s with fault := some (.keyIndexOutOfRange (s.reg x)) } ∧
      exec (.sknp x) s = .next { s with fault := some (.keyIndexOutOfRange (s.reg x)) }

/-- R162. `Fx07`: `V[x]` receives `DT`. -/
def Obligations.LdVxDTReadsTimer : Prop :=
  ∀ x : Reg,
    decodeWord (BitVec.ofNat 16 (0xF007 + 0x100 * x.val)) = some (.ldVxDT x) ∧
    ∀ s : State, ∃ t, exec (.ldVxDT x) s = .next t ∧ t.pc = s.pc + 2 ∧ t.reg x = s.dt ∧
      SameBut s t (fun c => c = .pc ∨ c = .v x)

/-- R163. `Fx0A`: with no key pressed the STEP changes nothing at all; else `V[x]` receives the index of a pressed key:
the lowest under `lowest`, the highest under `highest`, and under `any` each pressed key for some drawn choice. The
frame's `draw` is the model's own (log entry 3). -/
def Obligations.KeyWaitPicksPressedKey : Prop :=
  ∀ x : Reg,
    decodeWord (BitVec.ofNat 16 (0xF00A + 0x100 * x.val)) = some (.ldVxK x) ∧
    (∀ s : State, (∀ k : Fin 16, s.key[k.val] = false) → exec (.ldVxK x) s = .next s) ∧
    (∀ (s : State) (j : Fin 16), s.key[j.val] = true →
      ∃ t, ∃ k : Fin 16, exec (.ldVxK x) s = .next t ∧ t.pc = s.pc + 2 ∧
        s.key[k.val] = true ∧ (t.reg x).toNat = k.val ∧
        (s.params.keywaitPick = .lowest → k ≤ j) ∧
        (s.params.keywaitPick = .highest → j ≤ k) ∧
        SameBut s t (fun c => c = .pc ∨ c = .v x ∨ c = .draw)) ∧
    ∀ (s : State) (j : Fin 16), s.key[j.val] = true → s.params.keywaitPick = .any →
      ∃ choice t, exec (.ldVxK x) { s with choice := choice } = .next t ∧ (t.reg x).toNat = j.val

/-- R164, R165. `Fx15` sets `DT` and `Fx18` sets `ST`, and with it `SOUND_ACTIVE`, at once. -/
def Obligations.TimersAreSet : Prop :=
  ∀ x : Reg,
    decodeWord (BitVec.ofNat 16 (0xF015 + 0x100 * x.val)) = some (.ldDTVx x) ∧
    decodeWord (BitVec.ofNat 16 (0xF018 + 0x100 * x.val)) = some (.ldSTVx x) ∧
    ∀ s : State,
      (∃ t, exec (.ldDTVx x) s = .next t ∧ t.pc = s.pc + 2 ∧ t.dt = s.reg x ∧
        SameBut s t (fun c => c = .pc ∨ c = .dt)) ∧
      ∃ t, exec (.ldSTVx x) s = .next t ∧ t.pc = s.pc + 2 ∧ t.st = s.reg x ∧
        (t.soundActive = true ↔ s.reg x ≠ 0) ∧ SameBut s t (fun c => c = .pc ∨ c = .st)

/-! ### Encoding -/

/-- R74, R79: decoding the word of an instruction gives the instruction back, for every operand value. -/
def Obligations.DecodeOfEncode : Prop :=
  ∀ i : Instr, decodeWord (encode i) = some i ∧
    ∀ rest, decodeBytes (highByte (encode i) :: lowByte (encode i) :: rest) = .ok (i, rest)

/-- R74, R75: each instruction word has one meaning; an instruction decoded from a word encodes to that word. -/
def Obligations.EncodeOfDecode : Prop :=
  ∀ (op : Word) (i : Instr), decodeWord op = some i → encode i = op

/-- R74, R75: a word decodes to an instruction iff it matches a row of the table, it decodes to that row's instruction,
and it matches no other row. -/
def Obligations.DecodeFollowsTable : Prop :=
  ∀ op : Word,
    ((decodeWord op).isSome ↔ instructionWord op = true) ∧
    ∀ i, decodeWord op = some i →
      i.row ∈ opcodeTable ∧ i.row.matches op = true ∧ ∀ r ∈ opcodeTable, r.matches op = true → r = i.row

/-- R76's table: the unimplemented words, by their nibbles. -/
def Obligations.UnimplementedWords : Prop :=
  ∀ op : Word, decodeWord op = none ↔
    (op.toNat / 0x1000 = 0x0 ∧ op.toNat ≠ 0x0000 ∧ op.toNat ≠ 0x00E0 ∧ op.toNat ≠ 0x00EE) ∨
    (op.toNat / 0x1000 = 0x5 ∧ op.toNat % 0x10 ≠ 0) ∨
    (op.toNat / 0x1000 = 0x8 ∧ op.toNat % 0x10 ∈ [0x8, 0x9, 0xA, 0xB, 0xC, 0xD, 0xF]) ∨
    (op.toNat / 0x1000 = 0x9 ∧ op.toNat % 0x10 ≠ 0) ∨
    (op.toNat / 0x1000 = 0xE ∧ op.toNat % 0x100 ∉ [0x9E, 0xA1]) ∨
    (op.toNat / 0x1000 = 0xF ∧
      op.toNat % 0x100 ∉ [0x07, 0x0A, 0x15, 0x18, 0x1E, 0x29, 0x33, 0x55, 0x65])

/-- Words written out from R74 (and the field example of spec 95_test_vectors.md, 2.7), one or more per family. -/
def Obligations.WordsDecodeAsWritten : Prop :=
  decodeWord 0b0000000011101110#16 = some .ret ∧
  decodeWord 0b0001001000110100#16 = some (.jp 0x234) ∧
  decodeWord 0b0011001100101010#16 = some (.seImm 0x3 0x2A) ∧
  decodeWord 0b1000101010110111#16 = some (.subn 0xA 0xB) ∧
  decodeWord 0b1000101011110110#16 = some (.shr 0xA 0xF) ∧
  decodeWord 0b1101011110100101#16 = some (.drw 0x7 0xA 0x5) ∧
  decodeWord 0b1110101010100001#16 = some (.sknp 0xA) ∧
  decodeWord 0b1111101001010101#16 = some (.ldMemVx 0xA) ∧
  decodeWord 0b1111101001110101#16 = none

/-! ### STEP -/

/-- R58, R191: the fetch reads two bytes at any `PC` up to 0xFFE, odd or even, high byte first; above it the STEP raises
`FetchOutOfBounds` and changes nothing else. -/
def Obligations.FetchIsBigEndianAndBounded : Prop :=
  (∀ s : State, s.pc.toNat ≤ 0xFFE → ∃ op, s.fetch = .ok op ∧
    op.toNat = 256 * (s.byteAt s.pc.toNat).toNat + (s.byteAt (s.pc.toNat + 1)).toNat) ∧
  ∀ s : State, s.fault = none → s.pc.toNat > 0xFFE →
    step s = .next { s with fault := some (.fetchOutOfBounds s.pc) }

/-- R79: with no fault latched and a fetch in bounds, STEP is `exec` of the instruction that the two bytes at `PC`
decode to, from that same state (`exec` includes the advance of `PC`). R170, R172: with no fault latched, the host's
operation STEP, given its drawn inputs, leaves what `step` leaves when it has those inputs, and answers nothing. -/
def Obligations.StepRunsDecodedInstruction : Prop :=
  (∀ (s : State) (i : Instr), s.fault = none → s.pc.toNat ≤ 0xFFE →
    decodeWord (wordOfBytes (s.byteAt s.pc.toNat) (s.byteAt (s.pc.toNat + 1))) = some i →
    step s = exec i s) ∧
  ∀ (s t : State) (rnd : Byte) (choice : Nat), s.fault = none →
    step { s with rnd := rnd, choice := choice } = .next t → s.hostOp (.step rnd choice) = (t, .none)

/-- R192: with no fault latched and a fetch in bounds, a word that matches no row raises `UnimplementedOpcode` with the
word. -/
def Obligations.UnimplementedWordRaises : Prop :=
  ∀ (s : State) (op : Word), s.fault = none → s.pc.toNat ≤ 0xFFE →
    wordOfBytes (s.byteAt s.pc.toNat) (s.byteAt (s.pc.toNat + 1)) = op → decodeWord op = none →
    step s = .next { s with fault := some (.unimplementedOpcode op) }

/-- The model's `withFetchWord` places a word where the next STEP fetches it, in every state, a faulted one or one with
`PC` above 0xFFE included. -/
def Obligations.PlacedWordRunsNext : Prop :=
  ∀ (s : State) (w : Nat) (i : Instr), decodeTableWord 16 w = some i →
    step (s.withFetchWord 16 w) = exec i (s.withFetchWord 16 w)

/-- R195, R203, R218: every STEP terminates in a next state, from every state: no fault ends the model's run, and no
instruction is refused. -/
def Obligations.StepAlwaysAnswersNext : Prop :=
  (∀ (i : Instr) (s : State), ∃ t, exec i s = .next t) ∧ ∀ s : State, ∃ t, step s = .next t

/-- R195: faults are precise. The state that a faulting STEP leaves is the state before it, plus the latch. -/
def Obligations.FaultsArePrecise : Prop :=
  ∀ s t : State, s.fault = none → step s = .next t → t.fault ≠ none → t = { s with fault := t.fault }

/-- R193, R194, R196, R197 (and R200, which the spec derives from them): each instruction raises the one fault that it can raise exactly under its condition, and otherwise
leaves the latch as it is. -/
def Obligations.EachInstructionRaisesItsOneFault : Prop :=
  ∀ (i : Instr) (s : State),
    match i.mayRaise s with
    | some c => exec i s = .next { s with fault := some c }
    | none => ∃ t, exec i s = .next t ∧ t.fault = s.fault

/-- R34: an instruction that raises no fault writes only the components that the access table lists for it. -/
def Obligations.WritesOnlyWhatTheTableLists : Prop :=
  ∀ (i : Instr) (s t : State), i.mayRaise s = none → exec i s = .next t → SameBut s t (i.writes s)

/-- R172, R173, R174: STEP never changes `KEY`, changes `DT` only by `Fx15` and `ST` only by `Fx18`, and never changes
the parameters. -/
def Obligations.StepLeavesKeysAndTimers : Prop :=
  ∀ s t : State, step s = .next t →
    t.key = s.key ∧ t.params = s.params ∧
    (t.dt ≠ s.dt → ∃ op x, s.fetch = .ok op ∧ decodeWord op = some (.ldDTVx x) ∧ t.dt = s.reg x) ∧
    (t.st ≠ s.st → ∃ op x, s.fetch = .ok op ∧ decodeWord op = some (.ldSTVx x) ∧ t.st = s.reg x)

/-- R28: no instruction reads `ST`. Two states that differ only in `ST` stay so over a STEP. -/
def Obligations.SoundTimerIsNotRead : Prop :=
  ∀ (s t : State) (b : Byte), step s = .next t → ∃ b', step { s with st := b } = .next { t with st := b' }

/-- R26: stale stack entries are not observable. Two states that differ only in entries at or above `SP` stay so over a
STEP. -/
def Obligations.StaleStackEntriesAreNotRead : Prop :=
  ∀ (s t : State) (stack : Vector Word 16), (∀ k : Fin 16, k.val < s.sp.val → stack[k.val] = s.stack[k.val]) →
    step s = .next t →
    ∃ stack' : Vector Word 16, step { s with stack := stack } = .next { t with stack := stack' } ∧
      ∀ k : Fin 16, k.val < t.sp.val → stack'[k.val] = t.stack[k.val]

/-! ### Invariants and memory -/

/-- The model's memory form is canonical: two memories in the form that read the same at every address are the same
list. (The form is the model's; log entry 4.) -/
def Obligations.EqualMemoriesAreEqualData : Prop :=
  ∀ (p : Params) (m m' : Memory), Memory.wf p m = true → Memory.wf p m' = true →
    (∀ a, Memory.read p m a = Memory.read p m' a) → m = m'

/-- R59, R65: a data write is read back at its address, at no other address, and by the next fetch of that byte. -/
def Obligations.WriteIsSeenByReadAndFetch : Prop :=
  ∀ (s t : State) (a : Nat) (b : Byte), s.memWrite a b = .ok t →
    t.memRead a = .ok b ∧ (∀ c, c ≠ a → t.byteAt c = s.byteAt c) ∧
    (s.pc.toNat = a → a ≤ 0xFFE → ∃ op, t.fetch = .ok op ∧ highByte op = b) ∧
    (s.pc.toNat + 1 = a → ∃ op, t.fetch = .ok op ∧ lowByte op = b)

/-- A STEP keeps memory in its canonical form. (The form is the model's; log entry 4.) -/
def Obligations.StepKeepsMemoryForm : Prop :=
  ∀ s t : State, MemoryInv s → step s = .next t → MemoryInv t

/-- R24: a STEP keeps `PC` at most 0x10FE, and every stack entry in use at most 0x1000. -/
def Obligations.StepKeepsPcBound : Prop :=
  ∀ s t : State, PcInv s → step s = .next t → PcInv t

/-- Every operation of the host (R170), in every state, keeps both invariants, the bounds of R24 and the memory form,
which is the model's own (log entry 4, a DESIGN CHOICE); so every run from reset has them, whatever operations the host
issues and in whatever order (R171). -/
def Obligations.EveryRunKeepsTheInvariants : Prop :=
  (∀ (s : State) (op : HostOp), MemoryInv s → PcInv s → MemoryInv (s.hostOp op).1 ∧ PcInv (s.hostOp op).1) ∧
  ∀ ops, MemoryInv (State.reset.hostRun ops) ∧ PcInv (State.reset.hostRun ops)

/-- Both invariants hold of `State.reset`: the bounds of R24, and the memory form, which is the model's own (log entry
4, a DESIGN CHOICE) and no rule of the spec. -/
def Obligations.ResetHasTheInvariants : Prop :=
  MemoryInv State.reset ∧ PcInv State.reset

/-! ### The host's operations -/

/-- R33, R210: RESET, in any state, zeroes everything, sets `PC` to 0x200, installs `FONT` at 0x000 and clears `FAULT`;
two RESETs equal one; the state right after construction is such a state. `FONT` is whatever the parameter is. -/
def Obligations.ResetValues : Prop :=
  (∀ s : State, ∃ t, s.hostOp .reset = (t, .none) ∧
    (∀ r, t.reg r = 0) ∧ t.i = 0 ∧ t.pc = 0x200 ∧ t.sp.val = 0 ∧ (∀ k : Fin 16, t.stack[k.val] = 0) ∧
    t.dt = 0 ∧ t.st = 0 ∧ t.soundActive = false ∧ (∀ k, t.pixel k = false) ∧
    (∀ k : Fin 16, t.key[k.val] = false) ∧
    (∀ a : Fin 80, t.byteAt a.val = s.params.font[a.val]) ∧ (∀ a, 80 ≤ a → t.byteAt a = 0) ∧
    t.fault = none ∧ t.params = s.params ∧ t.hostOp .reset = (t, .none)) ∧
  State.reset.hostOp .reset = (State.reset, .none)

/-- R203: while a fault is latched, STEP, TICK_TIMERS, SET_KEY and LOAD change nothing (SET_KEY and LOAD answer ok,
whatever their arguments), the reads answer, and RESET alone clears the latch. -/
def Obligations.FaultedMachineIsInert : Prop :=
  ∀ (s : State) (c : Cause), s.fault = some c →
    step s = .next s ∧
    (∀ rnd choice, s.hostOp (.step rnd choice) = (s, .none)) ∧
    s.hostOp .tickTimers = (s, .none) ∧
    (∀ index pressed, s.hostOp (.setKey index pressed) = (s, .ok)) ∧
    (∀ bytes, s.hostOp (.load bytes) = (s, .ok)) ∧
    s.hostOp .framebuffer = (s, .pixels s.fb) ∧ s.hostOp .soundActive = (s, .bit (s.st != 0)) ∧
    s.hostOp .faultStatus = (s, .status (some c)) ∧
    (s.hostOp .reset).1.fault = none

/-- R173: TICK_TIMERS counts each timer down by one, with a floor at 0, and changes nothing else; with a fault latched it
changes nothing. -/
def Obligations.TickCountsDown : Prop :=
  (∀ s : State, s.fault = none → ∃ t, s.hostOp .tickTimers = (t, .none) ∧
    t.dt.toNat = s.dt.toNat - 1 ∧ t.st.toNat = s.st.toNat - 1 ∧ SameBut s t (fun c => c = .dt ∨ c = .st)) ∧
  ∀ s : State, s.fault ≠ none → s.hostOp .tickTimers = (s, .none)

/-- R174: SET_KEY sets one key, or answers `KeyIndexError` and changes nothing; with a fault latched it answers ok and
changes nothing. -/
def Obligations.SetKeySetsOneKey : Prop :=
  (∀ (s : State) (k : Fin 16) (pressed : Bool), s.fault = none →
    ∃ t, s.hostOp (.setKey k.val pressed) = (t, .ok) ∧ t.key[k.val] = pressed ∧ SameBut s t (· = .key k)) ∧
  (∀ (s : State) (index : Nat) (pressed : Bool), s.fault = none → index > 15 →
    s.hostOp (.setKey index pressed) = (s, .error (.keyIndexError index))) ∧
  ∀ (s : State) (index : Nat) (pressed : Bool), s.fault ≠ none → s.hostOp (.setKey index pressed) = (s, .ok)

/-- R175: LOAD writes exactly the image's bytes from 0x200 upward, or answers `LoadOverflow` and changes nothing; with a
fault latched it answers ok and changes nothing. -/
def Obligations.LoadWritesExactlyTheImage : Prop :=
  (∀ (s : State) (bytes : List Byte), s.fault = none → bytes.length ≤ 3584 →
    ∃ t, s.hostOp (.load bytes) = (t, .ok) ∧
      (∀ k, (h : k < bytes.length) → t.byteAt (0x200 + k) = bytes[k]) ∧
      SameBut s t (fun c => ∃ k, k < bytes.length ∧ c = .byte (0x200 + k))) ∧
  (∀ (s : State) (bytes : List Byte), s.fault = none → bytes.length > 3584 →
    s.hostOp (.load bytes) = (s, .error (.loadOverflow bytes.length))) ∧
  ∀ (s : State) (bytes : List Byte), s.fault ≠ none → s.hostOp (.load bytes) = (s, .ok)

/-- R176, R177, R178: the reads answer the pixels, `ST != 0` and the latch, and change nothing. -/
def Obligations.ReadsHaveNoSideEffect : Prop :=
  ∀ s : State,
    (∃ fb, s.hostOp .framebuffer = (s, .pixels fb) ∧
      ∀ px py, px < 64 → py < 32 → fb.getLsbD (px + 64 * py) = s.pixel (px + 64 * py)) ∧
    (∃ b, s.hostOp .soundActive = (s, .bit b) ∧ (b = true ↔ s.st.toNat ≠ 0)) ∧
    s.hostOp .faultStatus = (s, .status s.fault)
end

