-- ==== Sys2Proof/Laws/Decode.lean ====
section
/-! SUPPORT. The fields of a packed word, and decoding read through its fields. -/

namespace Sys2Proof

/-! ### Fields as numbers -/

theorem fieldX_val (op : Word) : (fieldX op).val = op.toNat / 0x100 % 16 := rfl

theorem fieldY_val (op : Word) : (fieldY op).val = op.toNat / 0x10 % 16 := rfl

theorem fieldN_val (op : Word) : (fieldN op).val = op.toNat % 16 := rfl

theorem fieldNN_toNat (op : Word) : (fieldNN op).toNat = op.toNat % 256 := by simp [fieldNN]

theorem fieldNNN_toNat (op : Word) : (fieldNNN op).toNat = op.toNat % 4096 := by simp [fieldNNN]

/-! ### Packed words -/

theorem packWord_toNat {d1 low : Nat} (hd : d1 < 16) (hl : low < 0x1000) :
    (packWord d1 low).toNat = 0x1000 * d1 + low := by
  simp only [packWord, BitVec.toNat_ofNat]
  omega

theorem packXNN_toNat {d1 nn : Nat} (x : Reg) (hd : d1 < 16) (hn : nn < 256) :
    (packXNN d1 x nn).toNat = 0x1000 * d1 + (0x100 * x.val + nn) :=
  packWord_toNat hd (by omega)

theorem packXYN_toNat {d1 n : Nat} (x y : Reg) (hd : d1 < 16) (hn : n < 16) :
    (packXYN d1 x y n).toNat = 0x1000 * d1 + (0x100 * x.val + 0x10 * y.val + n) :=
  packWord_toNat hd (by omega)

/-! ### Bytes and words -/

theorem wordOfBytes_split (op : Word) : wordOfBytes (highByte op) (lowByte op) = op := by
  apply BitVec.eq_of_toNat_eq
  simp only [wordOfBytes, highByte, lowByte, BitVec.toNat_ofNat]
  have := op.isLt
  omega

theorem highByte_wordOfBytes (hi lo : Byte) : highByte (wordOfBytes hi lo) = hi := by
  apply BitVec.eq_of_toNat_eq
  simp only [wordOfBytes, highByte, BitVec.toNat_ofNat]
  have := hi.isLt
  have := lo.isLt
  omega

theorem lowByte_wordOfBytes (hi lo : Byte) : lowByte (wordOfBytes hi lo) = lo := by
  apply BitVec.eq_of_toNat_eq
  simp only [wordOfBytes, lowByte, BitVec.toNat_ofNat]
  have := hi.isLt
  have := lo.isLt
  omega

/-! ### The three masks of R74 -/

/-- A bitwise and, cut at bit `k`. -/
theorem land_split (k a b : Nat) :
    a &&& b = 2 ^ k * (a / 2 ^ k &&& b / 2 ^ k) + (a % 2 ^ k &&& b % 2 ^ k) := by
  rw [← Nat.and_div_two_pow, ← Nat.and_mod_two_pow, Nat.div_add_mod]

theorem and_F000_toNat (op : Word) : (op &&& 0xF000).toNat = 0x1000 * fieldD1 op := by
  have h := op.isLt
  rw [BitVec.toNat_and, show BitVec.toNat (0xF000 : Word) = 0xF000 from rfl, land_split 12]
  simp only [Nat.reducePow, Nat.reduceMod, Nat.reduceDiv, Nat.and_zero, Nat.add_zero, fieldD1]
  rw [show (15 : Nat) = 2 ^ 4 - 1 by rfl, Nat.and_two_pow_sub_one_eq_mod]
  omega

theorem and_F00F_toNat (op : Word) : (op &&& 0xF00F).toNat = 0x1000 * fieldD1 op + (fieldN op).val := by
  have h := op.isLt
  rw [BitVec.toNat_and, show BitVec.toNat (0xF00F : Word) = 0xF00F from rfl, land_split 12,
    land_split 4 (_ % _)]
  simp only [Nat.reducePow, Nat.reduceMod, Nat.reduceDiv, Nat.and_zero, fieldD1, fieldN_val]
  rw [show (15 : Nat) = 2 ^ 4 - 1 by rfl, Nat.and_two_pow_sub_one_eq_mod, Nat.and_two_pow_sub_one_eq_mod]
  omega

theorem and_F0FF_toNat (op : Word) : (op &&& 0xF0FF).toNat = 0x1000 * fieldD1 op + (fieldNN op).toNat := by
  have h := op.isLt
  rw [BitVec.toNat_and, show BitVec.toNat (0xF0FF : Word) = 0xF0FF from rfl, land_split 12,
    land_split 8 (_ % _)]
  simp only [Nat.reducePow, Nat.reduceMod, Nat.reduceDiv, Nat.and_zero, fieldD1, fieldNN_toNat]
  rw [show (15 : Nat) = 2 ^ 4 - 1 by rfl, show (255 : Nat) = 2 ^ 8 - 1 by rfl, Nat.and_two_pow_sub_one_eq_mod,
    Nat.and_two_pow_sub_one_eq_mod]
  omega


theorem Row.matches_of_toNat {r : Row} {op : Word} (h : (op &&& r.mask).toNat = r.value.toNat) :
    r.matches op = true := by
  simp only [Row.matches, beq_iff_eq]
  exact BitVec.eq_of_toNat_eq h

theorem matches_packWord {d1 low : Nat} {v : Word} (hd : d1 < 16) (hl : low < 0x1000) (hv : v.toNat = 0x1000 * d1) :
    Row.matches ⟨0xF000, v⟩ (packWord d1 low) = true := by
  apply Row.matches_of_toNat
  rw [and_F000_toNat, fieldD1, packWord_toNat hd hl, hv]
  omega

theorem matches_packXYN {d1 n : Nat} {v : Word} (x y : Reg) (hd : d1 < 16) (hn : n < 16)
    (hv : v.toNat = 0x1000 * d1 + n) : Row.matches ⟨0xF00F, v⟩ (packXYN d1 x y n) = true := by
  apply Row.matches_of_toNat
  rw [and_F00F_toNat, fieldD1, fieldN_val, packXYN_toNat x y hd hn, hv]
  omega

theorem matches_packXNN {d1 nn : Nat} {v : Word} (x : Reg) (hd : d1 < 16) (hn : nn < 256)
    (hv : v.toNat = 0x1000 * d1 + nn) : Row.matches ⟨0xF0FF, v⟩ (packXNN d1 x nn) = true := by
  apply Row.matches_of_toNat
  rw [and_F0FF_toNat, fieldD1, fieldNN_toNat, packXNN_toNat x hd hn, hv]
  omega

end Sys2Proof
end

