-- ==== Sys2Proof/Laws/State.lean ====
section
/-! SUPPORT. The field lemmas of State: one per field and update, true by rfl, so that no proof unfolds a record
update; then the registers read back through the accessors. -/

namespace Sys2Proof.Machine

/-! ### setReg -/

@[simp] theorem State.setReg_i (s : State) (x : Reg) (b : Byte) : (s.setReg x b).i = s.i := rfl
@[simp] theorem State.setReg_pc (s : State) (x : Reg) (b : Byte) : (s.setReg x b).pc = s.pc := rfl
@[simp] theorem State.setReg_sp (s : State) (x : Reg) (b : Byte) : (s.setReg x b).sp = s.sp := rfl
@[simp] theorem State.setReg_stack (s : State) (x : Reg) (b : Byte) : (s.setReg x b).stack = s.stack := rfl
@[simp] theorem State.setReg_dt (s : State) (x : Reg) (b : Byte) : (s.setReg x b).dt = s.dt := rfl
@[simp] theorem State.setReg_st (s : State) (x : Reg) (b : Byte) : (s.setReg x b).st = s.st := rfl
@[simp] theorem State.setReg_fb (s : State) (x : Reg) (b : Byte) : (s.setReg x b).fb = s.fb := rfl
@[simp] theorem State.setReg_key (s : State) (x : Reg) (b : Byte) : (s.setReg x b).key = s.key := rfl
@[simp] theorem State.setReg_mem (s : State) (x : Reg) (b : Byte) : (s.setReg x b).mem = s.mem := rfl
@[simp] theorem State.setReg_fault (s : State) (x : Reg) (b : Byte) : (s.setReg x b).fault = s.fault := rfl
@[simp] theorem State.setReg_params (s : State) (x : Reg) (b : Byte) : (s.setReg x b).params = s.params := rfl
@[simp] theorem State.setReg_rnd (s : State) (x : Reg) (b : Byte) : (s.setReg x b).rnd = s.rnd := rfl
@[simp] theorem State.setReg_choice (s : State) (x : Reg) (b : Byte) : (s.setReg x b).choice = s.choice := rfl
@[simp] theorem State.setReg_draws (s : State) (x : Reg) (b : Byte) : (s.setReg x b).draws = s.draws := rfl
@[simp] theorem State.setReg_byteAt (s : State) (x : Reg) (b : Byte) (a : Nat) : (s.setReg x b).byteAt a = s.byteAt a := rfl
@[simp] theorem State.setReg_pixel (s : State) (x : Reg) (b : Byte) (k : Nat) : (s.setReg x b).pixel k = s.pixel k := rfl
@[simp] theorem State.setReg_effAddr (s : State) (x : Reg) (b : Byte) (k : Nat) : (s.setReg x b).effAddr k = s.effAddr k := rfl

/-! ### setRegs -/

@[simp] theorem State.setRegs_i (s : State) (bs : List Byte) : (s.setRegs bs).i = s.i := rfl
@[simp] theorem State.setRegs_pc (s : State) (bs : List Byte) : (s.setRegs bs).pc = s.pc := rfl
@[simp] theorem State.setRegs_sp (s : State) (bs : List Byte) : (s.setRegs bs).sp = s.sp := rfl
@[simp] theorem State.setRegs_stack (s : State) (bs : List Byte) : (s.setRegs bs).stack = s.stack := rfl
@[simp] theorem State.setRegs_dt (s : State) (bs : List Byte) : (s.setRegs bs).dt = s.dt := rfl
@[simp] theorem State.setRegs_st (s : State) (bs : List Byte) : (s.setRegs bs).st = s.st := rfl
@[simp] theorem State.setRegs_fb (s : State) (bs : List Byte) : (s.setRegs bs).fb = s.fb := rfl
@[simp] theorem State.setRegs_key (s : State) (bs : List Byte) : (s.setRegs bs).key = s.key := rfl
@[simp] theorem State.setRegs_mem (s : State) (bs : List Byte) : (s.setRegs bs).mem = s.mem := rfl
@[simp] theorem State.setRegs_fault (s : State) (bs : List Byte) : (s.setRegs bs).fault = s.fault := rfl
@[simp] theorem State.setRegs_params (s : State) (bs : List Byte) : (s.setRegs bs).params = s.params := rfl
@[simp] theorem State.setRegs_rnd (s : State) (bs : List Byte) : (s.setRegs bs).rnd = s.rnd := rfl
@[simp] theorem State.setRegs_choice (s : State) (bs : List Byte) : (s.setRegs bs).choice = s.choice := rfl
@[simp] theorem State.setRegs_draws (s : State) (bs : List Byte) : (s.setRegs bs).draws = s.draws := rfl
@[simp] theorem State.setRegs_byteAt (s : State) (bs : List Byte) (a : Nat) : (s.setRegs bs).byteAt a = s.byteAt a := rfl
@[simp] theorem State.setRegs_pixel (s : State) (bs : List Byte) (k : Nat) : (s.setRegs bs).pixel k = s.pixel k := rfl
@[simp] theorem State.setRegs_effAddr (s : State) (bs : List Byte) (k : Nat) : (s.setRegs bs).effAddr k = s.effAddr k := rfl

/-! ### setI -/

@[simp] theorem State.setI_v (s : State) (w : Word) : (s.setI w).v = s.v := rfl
@[simp] theorem State.setI_i (s : State) (w : Word) : (s.setI w).i = w := rfl
@[simp] theorem State.setI_pc (s : State) (w : Word) : (s.setI w).pc = s.pc := rfl
@[simp] theorem State.setI_sp (s : State) (w : Word) : (s.setI w).sp = s.sp := rfl
@[simp] theorem State.setI_stack (s : State) (w : Word) : (s.setI w).stack = s.stack := rfl
@[simp] theorem State.setI_dt (s : State) (w : Word) : (s.setI w).dt = s.dt := rfl
@[simp] theorem State.setI_st (s : State) (w : Word) : (s.setI w).st = s.st := rfl
@[simp] theorem State.setI_fb (s : State) (w : Word) : (s.setI w).fb = s.fb := rfl
@[simp] theorem State.setI_key (s : State) (w : Word) : (s.setI w).key = s.key := rfl
@[simp] theorem State.setI_mem (s : State) (w : Word) : (s.setI w).mem = s.mem := rfl
@[simp] theorem State.setI_fault (s : State) (w : Word) : (s.setI w).fault = s.fault := rfl
@[simp] theorem State.setI_params (s : State) (w : Word) : (s.setI w).params = s.params := rfl
@[simp] theorem State.setI_rnd (s : State) (w : Word) : (s.setI w).rnd = s.rnd := rfl
@[simp] theorem State.setI_choice (s : State) (w : Word) : (s.setI w).choice = s.choice := rfl
@[simp] theorem State.setI_draws (s : State) (w : Word) : (s.setI w).draws = s.draws := rfl
@[simp] theorem State.setI_reg (s : State) (w : Word) (r : Reg) : (s.setI w).reg r = s.reg r := rfl
@[simp] theorem State.setI_byteAt (s : State) (w : Word) (a : Nat) : (s.setI w).byteAt a = s.byteAt a := rfl
@[simp] theorem State.setI_pixel (s : State) (w : Word) (k : Nat) : (s.setI w).pixel k = s.pixel k := rfl

/-! ### setPc -/

@[simp] theorem State.setPc_v (s : State) (w : Word) : (s.setPc w).v = s.v := rfl
@[simp] theorem State.setPc_i (s : State) (w : Word) : (s.setPc w).i = s.i := rfl
@[simp] theorem State.setPc_pc (s : State) (w : Word) : (s.setPc w).pc = w := rfl
@[simp] theorem State.setPc_sp (s : State) (w : Word) : (s.setPc w).sp = s.sp := rfl
@[simp] theorem State.setPc_stack (s : State) (w : Word) : (s.setPc w).stack = s.stack := rfl
@[simp] theorem State.setPc_dt (s : State) (w : Word) : (s.setPc w).dt = s.dt := rfl
@[simp] theorem State.setPc_st (s : State) (w : Word) : (s.setPc w).st = s.st := rfl
@[simp] theorem State.setPc_fb (s : State) (w : Word) : (s.setPc w).fb = s.fb := rfl
@[simp] theorem State.setPc_key (s : State) (w : Word) : (s.setPc w).key = s.key := rfl
@[simp] theorem State.setPc_mem (s : State) (w : Word) : (s.setPc w).mem = s.mem := rfl
@[simp] theorem State.setPc_fault (s : State) (w : Word) : (s.setPc w).fault = s.fault := rfl
@[simp] theorem State.setPc_params (s : State) (w : Word) : (s.setPc w).params = s.params := rfl
@[simp] theorem State.setPc_rnd (s : State) (w : Word) : (s.setPc w).rnd = s.rnd := rfl
@[simp] theorem State.setPc_choice (s : State) (w : Word) : (s.setPc w).choice = s.choice := rfl
@[simp] theorem State.setPc_draws (s : State) (w : Word) : (s.setPc w).draws = s.draws := rfl
@[simp] theorem State.setPc_reg (s : State) (w : Word) (r : Reg) : (s.setPc w).reg r = s.reg r := rfl
@[simp] theorem State.setPc_byteAt (s : State) (w : Word) (a : Nat) : (s.setPc w).byteAt a = s.byteAt a := rfl
@[simp] theorem State.setPc_pixel (s : State) (w : Word) (k : Nat) : (s.setPc w).pixel k = s.pixel k := rfl
@[simp] theorem State.setPc_effAddr (s : State) (w : Word) (k : Nat) : (s.setPc w).effAddr k = s.effAddr k := rfl

/-! ### advance -/

@[simp] theorem State.advance_v (s : State) : s.advance.v = s.v := rfl
@[simp] theorem State.advance_i (s : State) : s.advance.i = s.i := rfl
@[simp] theorem State.advance_pc (s : State) : s.advance.pc = s.pc + 2 := rfl
@[simp] theorem State.advance_sp (s : State) : s.advance.sp = s.sp := rfl
@[simp] theorem State.advance_stack (s : State) : s.advance.stack = s.stack := rfl
@[simp] theorem State.advance_dt (s : State) : s.advance.dt = s.dt := rfl
@[simp] theorem State.advance_st (s : State) : s.advance.st = s.st := rfl
@[simp] theorem State.advance_fb (s : State) : s.advance.fb = s.fb := rfl
@[simp] theorem State.advance_key (s : State) : s.advance.key = s.key := rfl
@[simp] theorem State.advance_mem (s : State) : s.advance.mem = s.mem := rfl
@[simp] theorem State.advance_fault (s : State) : s.advance.fault = s.fault := rfl
@[simp] theorem State.advance_params (s : State) : s.advance.params = s.params := rfl
@[simp] theorem State.advance_rnd (s : State) : s.advance.rnd = s.rnd := rfl
@[simp] theorem State.advance_choice (s : State) : s.advance.choice = s.choice := rfl
@[simp] theorem State.advance_draws (s : State) : s.advance.draws = s.draws := rfl
@[simp] theorem State.advance_reg (s : State) (r : Reg) : s.advance.reg r = s.reg r := rfl
@[simp] theorem State.advance_byteAt (s : State) (a : Nat) : s.advance.byteAt a = s.byteAt a := rfl
@[simp] theorem State.advance_pixel (s : State) (k : Nat) : s.advance.pixel k = s.pixel k := rfl
@[simp] theorem State.advance_effAddr (s : State) (k : Nat) : s.advance.effAddr k = s.effAddr k := rfl

/-! ### setDt -/

@[simp] theorem State.setDt_v (s : State) (b : Byte) : (s.setDt b).v = s.v := rfl
@[simp] theorem State.setDt_i (s : State) (b : Byte) : (s.setDt b).i = s.i := rfl
@[simp] theorem State.setDt_pc (s : State) (b : Byte) : (s.setDt b).pc = s.pc := rfl
@[simp] theorem State.setDt_sp (s : State) (b : Byte) : (s.setDt b).sp = s.sp := rfl
@[simp] theorem State.setDt_stack (s : State) (b : Byte) : (s.setDt b).stack = s.stack := rfl
@[simp] theorem State.setDt_dt (s : State) (b : Byte) : (s.setDt b).dt = b := rfl
@[simp] theorem State.setDt_st (s : State) (b : Byte) : (s.setDt b).st = s.st := rfl
@[simp] theorem State.setDt_fb (s : State) (b : Byte) : (s.setDt b).fb = s.fb := rfl
@[simp] theorem State.setDt_key (s : State) (b : Byte) : (s.setDt b).key = s.key := rfl
@[simp] theorem State.setDt_mem (s : State) (b : Byte) : (s.setDt b).mem = s.mem := rfl
@[simp] theorem State.setDt_fault (s : State) (b : Byte) : (s.setDt b).fault = s.fault := rfl
@[simp] theorem State.setDt_params (s : State) (b : Byte) : (s.setDt b).params = s.params := rfl
@[simp] theorem State.setDt_rnd (s : State) (b : Byte) : (s.setDt b).rnd = s.rnd := rfl
@[simp] theorem State.setDt_choice (s : State) (b : Byte) : (s.setDt b).choice = s.choice := rfl
@[simp] theorem State.setDt_draws (s : State) (b : Byte) : (s.setDt b).draws = s.draws := rfl
@[simp] theorem State.setDt_reg (s : State) (b : Byte) (r : Reg) : (s.setDt b).reg r = s.reg r := rfl
@[simp] theorem State.setDt_byteAt (s : State) (b : Byte) (a : Nat) : (s.setDt b).byteAt a = s.byteAt a := rfl
@[simp] theorem State.setDt_pixel (s : State) (b : Byte) (k : Nat) : (s.setDt b).pixel k = s.pixel k := rfl
@[simp] theorem State.setDt_effAddr (s : State) (b : Byte) (k : Nat) : (s.setDt b).effAddr k = s.effAddr k := rfl

/-! ### setSt -/

@[simp] theorem State.setSt_v (s : State) (b : Byte) : (s.setSt b).v = s.v := rfl
@[simp] theorem State.setSt_i (s : State) (b : Byte) : (s.setSt b).i = s.i := rfl
@[simp] theorem State.setSt_pc (s : State) (b : Byte) : (s.setSt b).pc = s.pc := rfl
@[simp] theorem State.setSt_sp (s : State) (b : Byte) : (s.setSt b).sp = s.sp := rfl
@[simp] theorem State.setSt_stack (s : State) (b : Byte) : (s.setSt b).stack = s.stack := rfl
@[simp] theorem State.setSt_dt (s : State) (b : Byte) : (s.setSt b).dt = s.dt := rfl
@[simp] theorem State.setSt_st (s : State) (b : Byte) : (s.setSt b).st = b := rfl
@[simp] theorem State.setSt_fb (s : State) (b : Byte) : (s.setSt b).fb = s.fb := rfl
@[simp] theorem State.setSt_key (s : State) (b : Byte) : (s.setSt b).key = s.key := rfl
@[simp] theorem State.setSt_mem (s : State) (b : Byte) : (s.setSt b).mem = s.mem := rfl
@[simp] theorem State.setSt_fault (s : State) (b : Byte) : (s.setSt b).fault = s.fault := rfl
@[simp] theorem State.setSt_params (s : State) (b : Byte) : (s.setSt b).params = s.params := rfl
@[simp] theorem State.setSt_rnd (s : State) (b : Byte) : (s.setSt b).rnd = s.rnd := rfl
@[simp] theorem State.setSt_choice (s : State) (b : Byte) : (s.setSt b).choice = s.choice := rfl
@[simp] theorem State.setSt_draws (s : State) (b : Byte) : (s.setSt b).draws = s.draws := rfl
@[simp] theorem State.setSt_reg (s : State) (b : Byte) (r : Reg) : (s.setSt b).reg r = s.reg r := rfl
@[simp] theorem State.setSt_byteAt (s : State) (b : Byte) (a : Nat) : (s.setSt b).byteAt a = s.byteAt a := rfl
@[simp] theorem State.setSt_pixel (s : State) (b : Byte) (k : Nat) : (s.setSt b).pixel k = s.pixel k := rfl
@[simp] theorem State.setSt_effAddr (s : State) (b : Byte) (k : Nat) : (s.setSt b).effAddr k = s.effAddr k := rfl

/-! ### setFb -/

@[simp] theorem State.setFb_v (s : State) (fb : BitVec 2048) : (s.setFb fb).v = s.v := rfl
@[simp] theorem State.setFb_i (s : State) (fb : BitVec 2048) : (s.setFb fb).i = s.i := rfl
@[simp] theorem State.setFb_pc (s : State) (fb : BitVec 2048) : (s.setFb fb).pc = s.pc := rfl
@[simp] theorem State.setFb_sp (s : State) (fb : BitVec 2048) : (s.setFb fb).sp = s.sp := rfl
@[simp] theorem State.setFb_stack (s : State) (fb : BitVec 2048) : (s.setFb fb).stack = s.stack := rfl
@[simp] theorem State.setFb_dt (s : State) (fb : BitVec 2048) : (s.setFb fb).dt = s.dt := rfl
@[simp] theorem State.setFb_st (s : State) (fb : BitVec 2048) : (s.setFb fb).st = s.st := rfl
@[simp] theorem State.setFb_fb (s : State) (fb : BitVec 2048) : (s.setFb fb).fb = fb := rfl
@[simp] theorem State.setFb_key (s : State) (fb : BitVec 2048) : (s.setFb fb).key = s.key := rfl
@[simp] theorem State.setFb_mem (s : State) (fb : BitVec 2048) : (s.setFb fb).mem = s.mem := rfl
@[simp] theorem State.setFb_fault (s : State) (fb : BitVec 2048) : (s.setFb fb).fault = s.fault := rfl
@[simp] theorem State.setFb_params (s : State) (fb : BitVec 2048) : (s.setFb fb).params = s.params := rfl
@[simp] theorem State.setFb_rnd (s : State) (fb : BitVec 2048) : (s.setFb fb).rnd = s.rnd := rfl
@[simp] theorem State.setFb_choice (s : State) (fb : BitVec 2048) : (s.setFb fb).choice = s.choice := rfl
@[simp] theorem State.setFb_draws (s : State) (fb : BitVec 2048) : (s.setFb fb).draws = s.draws := rfl
@[simp] theorem State.setFb_reg (s : State) (fb : BitVec 2048) (r : Reg) : (s.setFb fb).reg r = s.reg r := rfl
@[simp] theorem State.setFb_byteAt (s : State) (fb : BitVec 2048) (a : Nat) : (s.setFb fb).byteAt a = s.byteAt a := rfl
@[simp] theorem State.setFb_effAddr (s : State) (fb : BitVec 2048) (k : Nat) : (s.setFb fb).effAddr k = s.effAddr k := rfl

/-! ### setKeyAt -/

@[simp] theorem State.setKeyAt_v (s : State) (j : Fin 16) (p : Bool) : (s.setKeyAt j p).v = s.v := rfl
@[simp] theorem State.setKeyAt_i (s : State) (j : Fin 16) (p : Bool) : (s.setKeyAt j p).i = s.i := rfl
@[simp] theorem State.setKeyAt_pc (s : State) (j : Fin 16) (p : Bool) : (s.setKeyAt j p).pc = s.pc := rfl
@[simp] theorem State.setKeyAt_sp (s : State) (j : Fin 16) (p : Bool) : (s.setKeyAt j p).sp = s.sp := rfl
@[simp] theorem State.setKeyAt_stack (s : State) (j : Fin 16) (p : Bool) : (s.setKeyAt j p).stack = s.stack := rfl
@[simp] theorem State.setKeyAt_dt (s : State) (j : Fin 16) (p : Bool) : (s.setKeyAt j p).dt = s.dt := rfl
@[simp] theorem State.setKeyAt_st (s : State) (j : Fin 16) (p : Bool) : (s.setKeyAt j p).st = s.st := rfl
@[simp] theorem State.setKeyAt_fb (s : State) (j : Fin 16) (p : Bool) : (s.setKeyAt j p).fb = s.fb := rfl
@[simp] theorem State.setKeyAt_key (s : State) (j : Fin 16) (p : Bool) : (s.setKeyAt j p).key = s.key.set j.val p := rfl
@[simp] theorem State.setKeyAt_mem (s : State) (j : Fin 16) (p : Bool) : (s.setKeyAt j p).mem = s.mem := rfl
@[simp] theorem State.setKeyAt_fault (s : State) (j : Fin 16) (p : Bool) : (s.setKeyAt j p).fault = s.fault := rfl
@[simp] theorem State.setKeyAt_params (s : State) (j : Fin 16) (p : Bool) : (s.setKeyAt j p).params = s.params := rfl
@[simp] theorem State.setKeyAt_rnd (s : State) (j : Fin 16) (p : Bool) : (s.setKeyAt j p).rnd = s.rnd := rfl
@[simp] theorem State.setKeyAt_choice (s : State) (j : Fin 16) (p : Bool) : (s.setKeyAt j p).choice = s.choice := rfl
@[simp] theorem State.setKeyAt_draws (s : State) (j : Fin 16) (p : Bool) : (s.setKeyAt j p).draws = s.draws := rfl
@[simp] theorem State.setKeyAt_reg (s : State) (j : Fin 16) (p : Bool) (r : Reg) : (s.setKeyAt j p).reg r = s.reg r := rfl
@[simp] theorem State.setKeyAt_byteAt (s : State) (j : Fin 16) (p : Bool) (a : Nat) : (s.setKeyAt j p).byteAt a = s.byteAt a := rfl
@[simp] theorem State.setKeyAt_pixel (s : State) (j : Fin 16) (p : Bool) (k : Nat) : (s.setKeyAt j p).pixel k = s.pixel k := rfl
@[simp] theorem State.setKeyAt_effAddr (s : State) (j : Fin 16) (p : Bool) (k : Nat) : (s.setKeyAt j p).effAddr k = s.effAddr k := rfl

/-! ### redraw -/

@[simp] theorem State.redraw_v (s : State) : s.redraw.v = s.v := rfl
@[simp] theorem State.redraw_i (s : State) : s.redraw.i = s.i := rfl
@[simp] theorem State.redraw_pc (s : State) : s.redraw.pc = s.pc := rfl
@[simp] theorem State.redraw_sp (s : State) : s.redraw.sp = s.sp := rfl
@[simp] theorem State.redraw_stack (s : State) : s.redraw.stack = s.stack := rfl
@[simp] theorem State.redraw_dt (s : State) : s.redraw.dt = s.dt := rfl
@[simp] theorem State.redraw_st (s : State) : s.redraw.st = s.st := rfl
@[simp] theorem State.redraw_fb (s : State) : s.redraw.fb = s.fb := rfl
@[simp] theorem State.redraw_key (s : State) : s.redraw.key = s.key := rfl
@[simp] theorem State.redraw_mem (s : State) : s.redraw.mem = s.mem := rfl
@[simp] theorem State.redraw_fault (s : State) : s.redraw.fault = s.fault := rfl
@[simp] theorem State.redraw_params (s : State) : s.redraw.params = s.params := rfl
@[simp] theorem State.redraw_reg (s : State) (r : Reg) : s.redraw.reg r = s.reg r := rfl
@[simp] theorem State.redraw_byteAt (s : State) (a : Nat) : s.redraw.byteAt a = s.byteAt a := rfl
@[simp] theorem State.redraw_pixel (s : State) (k : Nat) : s.redraw.pixel k = s.pixel k := rfl
@[simp] theorem State.redraw_effAddr (s : State) (k : Nat) : s.redraw.effAddr k = s.effAddr k := rfl

@[simp] theorem State.redraw_draws (s : State) : s.redraw.draws = s.draws + 1 := rfl
@[simp] theorem State.redraw_rnd (s : State) : s.redraw.rnd = Config.rnd (s.draws + 1) := rfl
@[simp] theorem State.redraw_choice (s : State) : s.redraw.choice = Config.choice (s.draws + 1) := rfl

/-! ### skipIf -/

@[simp] theorem State.skipIf_v (s : State) (c : Bool) : (s.skipIf c).v = s.v := by cases c <;> rfl
@[simp] theorem State.skipIf_i (s : State) (c : Bool) : (s.skipIf c).i = s.i := by cases c <;> rfl
@[simp] theorem State.skipIf_sp (s : State) (c : Bool) : (s.skipIf c).sp = s.sp := by cases c <;> rfl
@[simp] theorem State.skipIf_stack (s : State) (c : Bool) : (s.skipIf c).stack = s.stack := by cases c <;> rfl
@[simp] theorem State.skipIf_dt (s : State) (c : Bool) : (s.skipIf c).dt = s.dt := by cases c <;> rfl
@[simp] theorem State.skipIf_st (s : State) (c : Bool) : (s.skipIf c).st = s.st := by cases c <;> rfl
@[simp] theorem State.skipIf_fb (s : State) (c : Bool) : (s.skipIf c).fb = s.fb := by cases c <;> rfl
@[simp] theorem State.skipIf_key (s : State) (c : Bool) : (s.skipIf c).key = s.key := by cases c <;> rfl
@[simp] theorem State.skipIf_mem (s : State) (c : Bool) : (s.skipIf c).mem = s.mem := by cases c <;> rfl
@[simp] theorem State.skipIf_fault (s : State) (c : Bool) : (s.skipIf c).fault = s.fault := by cases c <;> rfl
@[simp] theorem State.skipIf_params (s : State) (c : Bool) : (s.skipIf c).params = s.params := by cases c <;> rfl
@[simp] theorem State.skipIf_rnd (s : State) (c : Bool) : (s.skipIf c).rnd = s.rnd := by cases c <;> rfl
@[simp] theorem State.skipIf_choice (s : State) (c : Bool) : (s.skipIf c).choice = s.choice := by cases c <;> rfl
@[simp] theorem State.skipIf_draws (s : State) (c : Bool) : (s.skipIf c).draws = s.draws := by cases c <;> rfl
@[simp] theorem State.skipIf_reg (s : State) (c : Bool) (r : Reg) : (s.skipIf c).reg r = s.reg r := by cases c <;> rfl
@[simp] theorem State.skipIf_byteAt (s : State) (c : Bool) (a : Nat) : (s.skipIf c).byteAt a = s.byteAt a := by
  cases c <;> rfl
@[simp] theorem State.skipIf_pixel (s : State) (c : Bool) (k : Nat) : (s.skipIf c).pixel k = s.pixel k := by
  cases c <;> rfl

/-! ### The registers through their accessors -/

theorem State.reg_setReg (s : State) (x y : Reg) (b : Byte) :
    (s.setReg x b).reg y = if y = x then b else s.reg y := by
  simp only [State.reg, State.setReg, Vector.getElem_set, Fin.ext_iff, eq_comm]

@[simp] theorem State.reg_setReg_self (s : State) (x : Reg) (b : Byte) : (s.setReg x b).reg x = b := by
  simp [State.reg_setReg]

@[simp] theorem State.reg_setReg_of_ne (s : State) {x y : Reg} (b : Byte) (h : y ≠ x) :
    (s.setReg x b).reg y = s.reg y := by
  simp [State.reg_setReg, h]

@[simp] theorem State.reg_setRegs (s : State) (bs : List Byte) (r : Reg) :
    (s.setRegs bs).reg r = bs.getD r.val (s.reg r) := by
  simp [State.reg, State.setRegs]

theorem State.regsUpTo_length (s : State) (x : Reg) : (s.regsUpTo x).length = x.val + 1 := by
  simp [State.regsUpTo]

theorem State.regsUpTo_getElem (s : State) (x r : Reg) (h : r.val < (s.regsUpTo x).length) :
    (s.regsUpTo x)[r.val] = s.reg r := by
  simp [State.regsUpTo, State.reg]

end Sys2Proof.Machine
end

