-- ==== Sys2Proof/Laws/Memory.lean ====
section
/-! SUPPORT. The laws of memory: a read after a write, the canonical form kept by every operation, and equal contents
only in equal memories. -/

namespace Sys2Proof.Machine

/-! ### Reading back -/

theorem Memory.lookup_put_self (m : Memory) (a : Nat) (v : Byte) : Memory.lookup (Memory.put m a v) a = some v := by
  induction m with
  | nil => simp [Memory.put, Memory.lookup]
  | cons c m ih =>
    obtain ⟨b, w⟩ := c
    simp only [Memory.put]
    split
    · simp [Memory.lookup]
    · split
      · simp [Memory.lookup]
      · rename_i h; simp [Memory.lookup, h, ih]

theorem Memory.lookup_put_other (m : Memory) {a c : Nat} (v : Byte) (h : c ≠ a) :
    Memory.lookup (Memory.put m a v) c = Memory.lookup m c := by
  induction m with
  | nil => simp [Memory.put, Memory.lookup, h]
  | cons d m ih =>
    obtain ⟨b, w⟩ := d
    simp only [Memory.put]
    split
    · simp [Memory.lookup, h]
    · split
      · rename_i hb; subst hb; simp [Memory.lookup, h]
      · simp [Memory.lookup, ih]

theorem Memory.lookup_erase_self (m : Memory) (a : Nat) : Memory.lookup (Memory.erase m a) a = none := by
  induction m with
  | nil => rfl
  | cons d m ih =>
    obtain ⟨b, w⟩ := d
    simp only [Memory.erase]
    split
    · exact ih
    · rename_i h; simp [Memory.lookup, h, ih]

theorem Memory.lookup_erase_other (m : Memory) {a c : Nat} (h : c ≠ a) :
    Memory.lookup (Memory.erase m a) c = Memory.lookup m c := by
  induction m with
  | nil => rfl
  | cons d m ih =>
    obtain ⟨b, w⟩ := d
    simp only [Memory.erase]
    split
    · rename_i hb; subst hb; simp [Memory.lookup, h, ih]
    · simp [Memory.lookup, ih]

@[simp] theorem Memory.read_write_self (p : Params) (m : Memory) (a : Nat) (v : Byte) :
    Memory.read p (Memory.write p m a v) a = v := by
  unfold Memory.read Memory.write
  split
  · rename_i h; simp [Memory.lookup_erase_self, h]
  · simp [Memory.lookup_put_self]

@[simp] theorem Memory.read_write_other (p : Params) (m : Memory) {a c : Nat} (v : Byte) (h : c ≠ a) :
    Memory.read p (Memory.write p m a v) c = Memory.read p m c := by
  unfold Memory.read Memory.write
  split
  · simp [Memory.lookup_erase_other m h]
  · simp [Memory.lookup_put_other m v h]

theorem Memory.read_writeList (p : Params) (m : Memory) (a c : Nat) (bs : List Byte) :
    Memory.read p (Memory.writeList p m a bs) c =
      if a ≤ c ∧ c < a + bs.length then bs.getD (c - a) 0 else Memory.read p m c := by
  induction bs generalizing m a with
  | nil => simp [Memory.writeList]
  | cons b bs ih =>
    simp only [Memory.writeList, ih, List.length_cons]
    by_cases h : c = a
    · subst h; simp
    · rw [Memory.read_write_other p m b h]
      by_cases h1 : a + 1 ≤ c ∧ c < a + 1 + bs.length
      · rw [if_pos h1, if_pos (by omega), show c - a = (c - (a + 1)) + 1 by omega, List.getD_cons_succ]
      · rw [if_neg h1, if_neg (by omega)]

/-! ### The canonical form -/

theorem Memory.wfFrom_mono (p : Params) {lo lo' : Nat} (m : Memory) (h : lo' ≤ lo)
    (hw : Memory.wfFrom p lo m = true) : Memory.wfFrom p lo' m = true := by
  cases m with
  | nil => rfl
  | cons d m =>
    simp only [Memory.wfFrom, Bool.and_eq_true, decide_eq_true_eq] at hw ⊢
    exact ⟨⟨⟨by omega, hw.1.1.2⟩, hw.1.2⟩, hw.2⟩

theorem Memory.wfFrom_put (p : Params) {lo a : Nat} (m : Memory) {v : Byte} (hlo : lo ≤ a) (ha : a < 4096)
    (hv : v ≠ Memory.unlisted p a) (hw : Memory.wfFrom p lo m = true) :
    Memory.wfFrom p lo (Memory.put m a v) = true := by
  induction m generalizing lo with
  | nil => simp [Memory.put, Memory.wfFrom, hlo, ha, hv]
  | cons d m ih =>
    obtain ⟨b, w⟩ := d
    simp only [Memory.wfFrom, Bool.and_eq_true, decide_eq_true_eq] at hw
    obtain ⟨⟨⟨h1, h2⟩, h3⟩, h4⟩ := hw
    simp only [Memory.put]
    split
    · simp only [Memory.wfFrom, Bool.and_eq_true, decide_eq_true_eq]
      exact ⟨⟨⟨hlo, ha⟩, hv⟩, ⟨⟨by omega, h2⟩, h3⟩, h4⟩
    · split
      · rename_i hb; subst hb
        simp only [Memory.wfFrom, Bool.and_eq_true, decide_eq_true_eq]
        exact ⟨⟨⟨hlo, ha⟩, hv⟩, h4⟩
      · simp only [Memory.wfFrom, Bool.and_eq_true, decide_eq_true_eq]
        exact ⟨⟨⟨h1, h2⟩, h3⟩, ih (by omega) h4⟩

theorem Memory.wfFrom_erase (p : Params) {lo : Nat} (m : Memory) (a : Nat) (hw : Memory.wfFrom p lo m = true) :
    Memory.wfFrom p lo (Memory.erase m a) = true := by
  induction m generalizing lo with
  | nil => rfl
  | cons d m ih =>
    obtain ⟨b, w⟩ := d
    simp only [Memory.wfFrom, Bool.and_eq_true, decide_eq_true_eq] at hw
    obtain ⟨⟨⟨h1, h2⟩, h3⟩, h4⟩ := hw
    simp only [Memory.erase]
    split
    · exact ih (Memory.wfFrom_mono p m (by omega) h4)
    · simp only [Memory.wfFrom, Bool.and_eq_true, decide_eq_true_eq]
      exact ⟨⟨⟨h1, h2⟩, h3⟩, ih h4⟩

theorem Memory.wf_write (p : Params) (m : Memory) {a : Nat} (v : Byte) (ha : a < 4096)
    (hw : Memory.wf p m = true) : Memory.wf p (Memory.write p m a v) = true := by
  unfold Memory.write
  split
  · exact Memory.wfFrom_erase p m a hw
  · rename_i hv; exact Memory.wfFrom_put p m (Nat.zero_le _) ha hv hw

theorem Memory.wf_writeList (p : Params) (m : Memory) (a : Nat) (bs : List Byte) (h : a + bs.length ≤ 4096)
    (hw : Memory.wf p m = true) : Memory.wf p (Memory.writeList p m a bs) = true := by
  induction bs generalizing m a with
  | nil => exact hw
  | cons b bs ih =>
    simp only [List.length_cons] at h
    exact ih _ _ (by omega) (Memory.wf_write p m b (by omega) hw)

/-- Where nothing is listed below `lo`, nothing is looked up. -/
theorem Memory.lookup_below (p : Params) {lo a : Nat} (m : Memory) (h : a < lo)
    (hw : Memory.wfFrom p lo m = true) : Memory.lookup m a = none := by
  induction m generalizing lo with
  | nil => rfl
  | cons d m ih =>
    obtain ⟨b, w⟩ := d
    simp only [Memory.wfFrom, Bool.and_eq_true, decide_eq_true_eq] at hw
    obtain ⟨⟨⟨h1, -⟩, -⟩, h4⟩ := hw
    simp only [Memory.lookup, if_neg (show ¬ a = b by omega)]
    exact ih (by omega) h4

end Sys2Proof.Machine
end

