-- ==== Sys2Proof/Laws/Ops.lean ====
section
/-! SUPPORT. One lemma per shared operation that says everything it can do. -/

namespace Sys2Proof.Machine

/-! ### Data accesses -/

theorem State.memRead_ok (s : State) {a : Nat} (h : a ≤ 0xFFF) : s.memRead a = .ok (s.byteAt a) := by
  simp [State.memRead, h]

theorem State.memRead_error (s : State) {a : Nat} (h : 0xFFF < a) :
    s.memRead a = .error (.memoryOutOfBounds a) := by
  simp [State.memRead, Nat.not_le.mpr h]

/-- Reading a run of bytes that stays inside memory answers them all. -/
theorem State.readBytes_ok (s : State) (a n : Nat) (h : n = 0 ∨ a + n ≤ 0x1000) :
    s.readBytes a n = .ok ((List.range n).map fun k => s.byteAt (a + k)) := by
  induction n generalizing a with
  | zero => rfl
  | succ n ih =>
    rw [State.readBytes, State.memRead_ok s (by omega)]
    simp only [ih (a + 1) (by omega)]
    rw [List.range_succ_eq_map, List.map_cons, List.map_map]
    simp [Function.comp_def, Nat.add_assoc, Nat.add_comm 1]

/-- Reading a run that leaves memory stops at the lowest offending address (R196). -/
theorem State.readBytes_error (s : State) (a n : Nat) (hn : 0 < n) (h : 0x1000 < a + n) :
    s.readBytes a n = .error (.memoryOutOfBounds (max a 0x1000)) := by
  induction n generalizing a with
  | zero => omega
  | succ n ih =>
    rw [State.readBytes]
    by_cases ha : a ≤ 0xFFF
    · rw [State.memRead_ok s ha]
      simp only [ih (a + 1) (by omega) (by omega)]
      rw [show max (a + 1) 0x1000 = max a 0x1000 by omega]
    · rw [State.memRead_error s (by omega), show max a 0x1000 = a by omega]

/-- Writing a run of bytes that stays inside memory writes them all, and nothing but memory. -/
theorem State.writeBytes_ok (s : State) (a : Nat) (bs : List Byte) (h : bs = [] ∨ a + bs.length ≤ 0x1000) :
    s.writeBytes a bs = .ok { s with mem := Memory.writeList s.params s.mem a bs } := by
  induction bs generalizing s a with
  | nil => rfl
  | cons b bs ih =>
    have hl : a + (bs.length + 1) ≤ 0x1000 := by simpa using h
    rw [State.writeBytes, State.memWrite, if_pos (show a ≤ 0xFFF by omega)]
    simp only [ih _ (a + 1) (.inr (by omega))]
    rfl

/-- Writing a run that leaves memory stops at the lowest offending address (R196). -/
theorem State.writeBytes_error (s : State) (a : Nat) (bs : List Byte) (hn : bs ≠ []) (h : 0x1000 < a + bs.length) :
    s.writeBytes a bs = .error (.memoryOutOfBounds (max a 0x1000)) := by
  induction bs generalizing s a with
  | nil => exact absurd rfl hn
  | cons b bs ih =>
    rw [State.writeBytes, State.memWrite]
    simp only [List.length_cons] at h
    by_cases ha : a ≤ 0xFFF
    · rw [if_pos ha]
      have hb : bs ≠ [] := by rintro rfl; simp at h; omega
      simp only [ih _ (a + 1) hb (by omega)]
      rw [show max (a + 1) 0x1000 = max a 0x1000 by omega]
    · rw [if_neg ha, show max a 0x1000 = a by omega]

/-- A byte of memory after a run of bytes was written. -/
theorem State.byteAt_writeList (s : State) (a c : Nat) (bs : List Byte) :
    ({ s with mem := Memory.writeList s.params s.mem a bs } : State).byteAt c =
      if a ≤ c ∧ c < a + bs.length then bs.getD (c - a) 0 else s.byteAt c :=
  Memory.read_writeList s.params s.mem a c bs

/-! ### The stack -/

theorem State.push_ok (s : State) (w : Word) (h : s.sp.val < 16) :
    s.push w = .ok { s with stack := s.stack.set s.sp.val w, sp := ⟨s.sp.val + 1, by omega⟩ } := by
  simp [State.push, h]

theorem State.push_full (s : State) (w : Word) (h : s.sp.val = 16) : s.push w = .error .stackOverflow := by
  simp [State.push, h]

theorem State.pop_ok (s : State) (h : 0 < s.sp.val) :
    s.pop = .ok (s.stack[s.sp.val - 1]'(by omega), { s with sp := ⟨s.sp.val - 1, by omega⟩ }) := by
  simp [State.pop, h]

theorem State.pop_empty (s : State) (h : s.sp.val = 0) : s.pop = .error .stackUnderflow := by
  simp [State.pop, h]

/-! ### The keypad -/

theorem State.keyAt_ok (s : State) {k : Byte} (h : k.toNat < 16) : s.keyAt k = .ok s.key[k.toNat] := by
  simp [State.keyAt, h]

theorem State.keyAt_error (s : State) {k : Byte} (h : 15 < k.toNat) : s.keyAt k = .error (.keyIndexOutOfRange k) := by
  simp [State.keyAt]
  omega

theorem State.mem_pressedKeys (s : State) (k : Fin 16) : k ∈ s.pressedKeys ↔ s.key[k.val] = true := by
  simp [State.pressedKeys]

theorem pickKey_eq_none (pick : KeywaitPick) (choice : Nat) (ks : List (Fin 16)) :
    pickKey pick choice ks = none ↔ ks = [] := by
  match ks with
  | [] => simp [pickKey]
  | [_] => simp [pickKey]
  | a :: b :: l =>
    have : choice % (l.length + 1 + 1) < l.length + 1 + 1 := Nat.mod_lt _ (by omega)
    cases pick <;> simp [pickKey]
    omega

/-- Whatever the setting, the picked key is a pressed one. -/
theorem mem_of_pickKey (pick : KeywaitPick) (choice : Nat) (ks : List (Fin 16)) {k : Fin 16}
    (h : pickKey pick choice ks = some k) : k ∈ ks := by
  match ks with
  | [] => simp [pickKey] at h
  | [_] => simp_all [pickKey]
  | a :: b :: l =>
    cases pick with
    | lowest => simp_all [pickKey]
    | highest =>
      have hk : (b :: l).getLastD a = k := by simpa [pickKey] using h
      rw [List.getLastD_cons, List.getLastD_eq_getLast?] at hk
      rw [← hk]
      cases hl : l.getLast? with
      | none => simp
      | some z => simp [List.mem_of_getLast? hl]
    | any => exact List.mem_of_getElem? (by simpa [pickKey] using h)

/-! ### The framebuffer -/

theorem pixelIndex_lt (px py : Nat) : pixelIndex px py < 2048 := by
  unfold pixelIndex
  omega

/-- What toggling a list of pixels leaves at each pixel: its old value, flipped once for every time it is listed. -/
theorem toggle_pixel (ks : List Nat) (fb : BitVec 2048) (c : Bool) (j : Nat) (hj : j < 2048) :
    (toggle ks (fb, c)).1.getLsbD j = (fb.getLsbD j ^^ decide (ks.count j % 2 = 1)) := by
  induction ks generalizing fb c with
  | nil => simp [toggle]
  | cons k ks ih =>
    rw [toggle, ih]
    by_cases h : k = j
    · subst h
      rw [BitVec.getLsbD_xor, BitVec.getLsbD_twoPow, List.count_cons_self]
      rcases Nat.mod_two_eq_zero_or_one (ks.count k) with hc | hc <;>
        cases fb.getLsbD k <;> simp [-BitVec.getLsbD_eq_getElem, hj, hc, Nat.add_mod]
    · simp [h, BitVec.getLsbD_twoPow]

/-- The collision that toggling distinct pixels finds: one of them was set. -/
theorem toggle_collision (ks : List Nat) (hn : ks.Nodup) (hlt : ∀ k ∈ ks, k < 2048) (fb : BitVec 2048) (c : Bool) :
    (toggle ks (fb, c)).2 = (c || ks.any fun k => fb.getLsbD k) := by
  induction ks generalizing fb c with
  | nil => simp [toggle]
  | cons k ks ih =>
    obtain ⟨hk, hn⟩ := List.nodup_cons.mp hn
    rw [toggle, ih hn (fun j hj => hlt j (List.mem_cons_of_mem _ hj)), List.any_cons, Bool.or_assoc]
    congr 2
    rw [Bool.eq_iff_iff, List.any_eq_true, List.any_eq_true]
    refine exists_congr fun j => and_congr_right fun hj => ?_
    have : k ≠ j := fun e => hk (e ▸ hj)
    simp [BitVec.getLsbD_twoPow, this]

/-! ### Ending a STEP -/

@[simp] theorem State.commit_ok (s t : State) : s.commit (.ok t) = .next t := rfl

@[simp] theorem State.commit_error (s : State) (c : Cause) :
    s.commit (.error c) = .next { s with fault := some c } := rfl

/-- A STEP ends in a next state, whether it commits or raises. -/
theorem State.commit_next (s : State) (r : Except Cause State) : ∃ t, s.commit r = .next t := by
  cases r with
  | ok t => exact ⟨t, rfl⟩
  | error c => exact ⟨_, rfl⟩

end Sys2Proof.Machine
end

