-- ==== Sys2Proof/Laws/Exec.lean ====
section
/-! SUPPORT. What each meaning answers, said once: for the eight instructions that can raise a fault, the next state on
each side of the fault's condition; and what a STEP can do. -/

namespace Sys2Proof.Machine

/-! ### A skip changes `PC` only -/

theorem State.skipIf_eq (s : State) (c : Bool) :
    s.advance.skipIf c = s.setPc (if c then s.pc + 4 else s.pc + 2) := by
  cases c
  · rfl
  · simp only [State.skipIf, if_true, State.advance_pc, BitVec.add_assoc]
    rfl

/-! ### The instructions that can raise a fault -/

theorem execRet_ok (s : State) (h : 0 < s.sp.val) :
    execRet s = .next { s with
      pc := s.stack[s.sp.val - 1]'(by have := s.sp.isLt; omega)
      sp := ⟨s.sp.val - 1, by have := s.sp.isLt; omega⟩ } := by
  simp only [execRet, State.pop_ok s.advance (by simpa using h)]
  rfl

theorem execRet_error (s : State) (h : s.sp.val = 0) :
    execRet s = .next { s with fault := some .stackUnderflow } := by
  simp only [execRet, State.pop_empty s.advance (by simpa using h), State.commit_error]

theorem execCall_ok (nnn : BitVec 12) (s : State) (h : s.sp.val < 16) :
    execCall nnn s = .next { s with
      pc := zextAddr nnn
      sp := ⟨s.sp.val + 1, by omega⟩
      stack := s.stack.set s.sp.val (s.pc + 2) } := by
  simp only [execCall, State.push_ok s.advance _ (by simpa using h)]
  rfl

theorem execCall_error (nnn : BitVec 12) (s : State) (h : s.sp.val = 16) :
    execCall nnn s = .next { s with fault := some .stackOverflow } := by
  simp only [execCall, State.push_full s.advance _ (by simpa using h), State.commit_error]

theorem execLdB_ok (x : Reg) (s : State) (h : s.i.toNat + 2 ≤ 0xFFF) :
    execLdB x s = .next { s.advance with
      mem := Memory.writeList s.params s.mem s.i.toNat (bcdDigits (s.reg x)) } := by
  rw [execLdB, State.writeBytes_ok s.advance _ _ (.inr (by simp [State.effAddr, bcdDigits]; omega))]
  rfl

theorem execLdB_error (x : Reg) (s : State) (h : 0xFFF < s.i.toNat + 2) :
    execLdB x s = .next { s with fault := some (.memoryOutOfBounds (max s.i.toNat 0x1000)) } := by
  rw [execLdB, State.writeBytes_error s.advance _ _ (by simp [bcdDigits]) (by simp [State.effAddr, bcdDigits]; omega)]
  rfl

theorem execLdMemVx_ok (x : Reg) (s : State) (h : s.i.toNat + x.val ≤ 0xFFF) :
    execLdMemVx x s = .next { s.advance with
      mem := Memory.writeList s.params s.mem s.i.toNat (s.regsUpTo x) } := by
  rw [execLdMemVx, State.writeBytes_ok s.advance _ _
    (.inr (by simp [State.effAddr, State.regsUpTo_length]; omega))]
  rfl

theorem execLdMemVx_error (x : Reg) (s : State) (h : 0xFFF < s.i.toNat + x.val) :
    execLdMemVx x s = .next { s with fault := some (.memoryOutOfBounds (max s.i.toNat 0x1000)) } := by
  have hl := State.regsUpTo_length s x
  rw [execLdMemVx, State.writeBytes_error s.advance _ _ (by intro he; simp [he] at hl)
    (by simp [State.effAddr, hl]; omega)]
  rfl

theorem execLdVxMem_ok (x : Reg) (s : State) (h : s.i.toNat + x.val ≤ 0xFFF) :
    execLdVxMem x s = .next
      (s.advance.setRegs ((List.range (x.val + 1)).map fun k => s.byteAt (s.i.toNat + k))) := by
  simp only [execLdVxMem, State.readBytes_ok s.advance (s.effAddr 0) (x.val + 1)
    (.inr (by simp [State.effAddr]; omega))]
  rfl

theorem execLdVxMem_error (x : Reg) (s : State) (h : 0xFFF < s.i.toNat + x.val) :
    execLdVxMem x s = .next { s with fault := some (.memoryOutOfBounds (max s.i.toNat 0x1000)) } := by
  simp only [execLdVxMem, State.readBytes_error s.advance (s.effAddr 0) (x.val + 1) (by omega)
    (by simp [State.effAddr]; omega)]
  rfl

/-- The pixels that `Dxyn` toggles, as a list of distinct indices. -/
def drawnPixels (x y : Reg) (n : Fin 16) (s : State) : List Nat :=
  spritePixels (s.reg x).toNat (s.reg y).toNat 0 ((List.range n.val).map fun k => s.byteAt (s.i.toNat + k))

theorem execDrw_ok (x y : Reg) (n : Fin 16) (s : State) (h : n.val = 0 ∨ s.i.toNat + n.val ≤ 0x1000) :
    execDrw x y n s = .next
      ((s.advance.setFb (toggle (drawnPixels x y n s) (s.fb, false)).1).setReg VF
        (collisionFlag (toggle (drawnPixels x y n s) (s.fb, false)).2)) := by
  simp only [execDrw, State.readBytes_ok s.advance (s.effAddr 0) n.val (by simpa [State.effAddr] using h)]
  rfl

theorem execDrw_error (x y : Reg) (n : Fin 16) (s : State) (hn : 1 ≤ n.val) (h : 0x1000 < s.i.toNat + n.val) :
    execDrw x y n s = .next { s with fault := some (.memoryOutOfBounds (max s.i.toNat 0x1000)) } := by
  simp only [execDrw, State.readBytes_error s.advance (s.effAddr 0) n.val (by omega) (by simpa [State.effAddr] using h)]
  rfl

theorem execSkp_ok (x : Reg) (s : State) (h : (s.reg x).toNat < 16) :
    execSkp x s = .next (s.advance.skipIf s.key[(s.reg x).toNat]) := by
  simp only [execSkp, State.keyAt_ok s h, State.commit_ok]

theorem execSkp_error (x : Reg) (s : State) (h : 15 < (s.reg x).toNat) :
    execSkp x s = .next { s with fault := some (.keyIndexOutOfRange (s.reg x)) } := by
  simp only [execSkp, State.keyAt_error s h, State.commit_error]

theorem execSknp_ok (x : Reg) (s : State) (h : (s.reg x).toNat < 16) :
    execSknp x s = .next (s.advance.skipIf !s.key[(s.reg x).toNat]) := by
  simp only [execSknp, State.keyAt_ok s h, State.commit_ok]

theorem execSknp_error (x : Reg) (s : State) (h : 15 < (s.reg x).toNat) :
    execSknp x s = .next { s with fault := some (.keyIndexOutOfRange (s.reg x)) } := by
  simp only [execSknp, State.keyAt_error s h, State.commit_error]

/-! ### The key wait -/

theorem execLdVxK_none (x : Reg) (s : State)
    (h : pickKey s.params.keywaitPick s.choice s.pressedKeys = none) : execLdVxK x s = .next s := by
  have hp : s.advance.pc - 2 = s.pc := by simp
  simp only [execLdVxK, h, hp]
  rfl

theorem execLdVxK_some (x : Reg) (s : State) {k : Fin 16}
    (h : pickKey s.params.keywaitPick s.choice s.pressedKeys = some k) :
    execLdVxK x s = .next (s.advance.setReg x (keyByte k)).redraw := by
  simp only [execLdVxK, h]

/-! ### STEP -/

/-- What a STEP can do: nothing on a faulted machine; else latch a fault and keep everything else, or run the decoded
instruction. -/
theorem step_cases (s t : State) (h : step s = .next t) :
    (s.fault ≠ none ∧ t = s) ∨
    (s.fault = none ∧ ∃ c, t = { s with fault := some c }) ∨
    (s.fault = none ∧ s.pc.toNat ≤ 0xFFE ∧
      ∃ op i, s.fetch = .ok op ∧ decodeWord op = some i ∧ exec i s = .next t) := by
  simp only [step] at h
  split at h
  · rename_i hf
    cases h
    exact .inl ⟨by simp [hf], rfl⟩
  · rename_i hf
    split at h
    · cases h
      exact .inr (.inl ⟨hf, _, rfl⟩)
    · rename_i op hop
      split at h
      · cases h
        exact .inr (.inl ⟨hf, _, rfl⟩)
      · rename_i i hi
        refine .inr (.inr ⟨hf, ?_, op, i, hop, hi, h⟩)
        simp only [State.fetch] at hop
        split at hop
        · assumption
        · cases hop

/-! ### A placed word -/

@[simp] theorem State.byteAt_withByte_self (s : State) (a : Nat) (b : Byte) : (s.withByte a b).byteAt a = b :=
  Memory.read_write_self s.params s.mem a b

@[simp] theorem State.byteAt_withByte_other (s : State) {a c : Nat} (b : Byte) (h : c ≠ a) :
    (s.withByte a b).byteAt c = s.byteAt c :=
  Memory.read_write_other s.params s.mem b h

end Sys2Proof.Machine
end

