-- ==== Sys2Proof/Laws/PerInstr.lean ====
section
/-! SUPPORT. Facts about every instruction as syntax, one lemma per constructor. -/

/-- The encoder puts an instruction into its own row: the row is one of the 35 of R74, and the encoded word matches it
(`(op & mask) = match`). -/
def Sys2Proof.Laws.EncodedRow.Statement (i : Sys2Proof.Instr) : Prop :=
  i.row ∈ Sys2Proof.opcodeTable ∧ i.row.matches (Sys2Proof.encode i) = true

namespace Sys2Proof.Laws.EncodedRow

theorem row_mem (i : Instr) : i.row ∈ opcodeTable := by
  cases i <;> simp [Instr.row, opcodeTable, opcodeTableLow, opcodeTableMid, opcodeTableHigh]

theorem nop : Statement .nop := ⟨row_mem _, by decide⟩

theorem cls : Statement .cls := ⟨row_mem _, by decide⟩

theorem ret : Statement .ret := ⟨row_mem _, by decide⟩

theorem jp (nnn : BitVec 12) : Statement (.jp nnn) :=
  ⟨row_mem _, matches_packWord (by decide) nnn.isLt rfl⟩

theorem call (nnn : BitVec 12) : Statement (.call nnn) :=
  ⟨row_mem _, matches_packWord (by decide) nnn.isLt rfl⟩

theorem ldI (nnn : BitVec 12) : Statement (.ldI nnn) :=
  ⟨row_mem _, matches_packWord (by decide) nnn.isLt rfl⟩

theorem jpV0 (nnn : BitVec 12) : Statement (.jpV0 nnn) :=
  ⟨row_mem _, matches_packWord (by decide) nnn.isLt rfl⟩

theorem seImm (x : Reg) (nn : Byte) : Statement (.seImm x nn) :=
  ⟨row_mem _, matches_packWord (by decide) (by have := nn.isLt; omega) rfl⟩

theorem sneImm (x : Reg) (nn : Byte) : Statement (.sneImm x nn) :=
  ⟨row_mem _, matches_packWord (by decide) (by have := nn.isLt; omega) rfl⟩

theorem ldImm (x : Reg) (nn : Byte) : Statement (.ldImm x nn) :=
  ⟨row_mem _, matches_packWord (by decide) (by have := nn.isLt; omega) rfl⟩

theorem addImm (x : Reg) (nn : Byte) : Statement (.addImm x nn) :=
  ⟨row_mem _, matches_packWord (by decide) (by have := nn.isLt; omega) rfl⟩

theorem rnd (x : Reg) (nn : Byte) : Statement (.rnd x nn) :=
  ⟨row_mem _, matches_packWord (by decide) (by have := nn.isLt; omega) rfl⟩

theorem seReg (x y : Reg) : Statement (.seReg x y) :=
  ⟨row_mem _, matches_packXYN x y (by decide) (by decide) rfl⟩

theorem ldReg (x y : Reg) : Statement (.ldReg x y) :=
  ⟨row_mem _, matches_packXYN x y (by decide) (by decide) rfl⟩

theorem orReg (x y : Reg) : Statement (.orReg x y) :=
  ⟨row_mem _, matches_packXYN x y (by decide) (by decide) rfl⟩

theorem andReg (x y : Reg) : Statement (.andReg x y) :=
  ⟨row_mem _, matches_packXYN x y (by decide) (by decide) rfl⟩

theorem xorReg (x y : Reg) : Statement (.xorReg x y) :=
  ⟨row_mem _, matches_packXYN x y (by decide) (by decide) rfl⟩

theorem addReg (x y : Reg) : Statement (.addReg x y) :=
  ⟨row_mem _, matches_packXYN x y (by decide) (by decide) rfl⟩

theorem sub (x y : Reg) : Statement (.sub x y) :=
  ⟨row_mem _, matches_packXYN x y (by decide) (by decide) rfl⟩

theorem shr (x y : Reg) : Statement (.shr x y) :=
  ⟨row_mem _, matches_packXYN x y (by decide) (by decide) rfl⟩

theorem subn (x y : Reg) : Statement (.subn x y) :=
  ⟨row_mem _, matches_packXYN x y (by decide) (by decide) rfl⟩

theorem shl (x y : Reg) : Statement (.shl x y) :=
  ⟨row_mem _, matches_packXYN x y (by decide) (by decide) rfl⟩

theorem sneReg (x y : Reg) : Statement (.sneReg x y) :=
  ⟨row_mem _, matches_packXYN x y (by decide) (by decide) rfl⟩

theorem drw (x y : Reg) (n : Fin 16) : Statement (.drw x y n) :=
  ⟨row_mem _, matches_packWord (by decide) (by omega) rfl⟩

theorem skp (x : Reg) : Statement (.skp x) :=
  ⟨row_mem _, matches_packXNN x (by decide) (by decide) rfl⟩

theorem sknp (x : Reg) : Statement (.sknp x) :=
  ⟨row_mem _, matches_packXNN x (by decide) (by decide) rfl⟩

theorem ldVxDT (x : Reg) : Statement (.ldVxDT x) :=
  ⟨row_mem _, matches_packXNN x (by decide) (by decide) rfl⟩

theorem ldVxK (x : Reg) : Statement (.ldVxK x) :=
  ⟨row_mem _, matches_packXNN x (by decide) (by decide) rfl⟩

theorem ldDTVx (x : Reg) : Statement (.ldDTVx x) :=
  ⟨row_mem _, matches_packXNN x (by decide) (by decide) rfl⟩

theorem ldSTVx (x : Reg) : Statement (.ldSTVx x) :=
  ⟨row_mem _, matches_packXNN x (by decide) (by decide) rfl⟩

theorem addI (x : Reg) : Statement (.addI x) :=
  ⟨row_mem _, matches_packXNN x (by decide) (by decide) rfl⟩

theorem ldF (x : Reg) : Statement (.ldF x) :=
  ⟨row_mem _, matches_packXNN x (by decide) (by decide) rfl⟩

theorem ldB (x : Reg) : Statement (.ldB x) :=
  ⟨row_mem _, matches_packXNN x (by decide) (by decide) rfl⟩

theorem ldMemVx (x : Reg) : Statement (.ldMemVx x) :=
  ⟨row_mem _, matches_packXNN x (by decide) (by decide) rfl⟩

theorem ldVxMem (x : Reg) : Statement (.ldVxMem x) :=
  ⟨row_mem _, matches_packXNN x (by decide) (by decide) rfl⟩

/-- Every instruction's word belongs to its row. -/
theorem all : (i : Instr) → Statement i
  | .nop => nop
  | .cls => cls
  | .ret => ret
  | .jp nnn => jp nnn
  | .call nnn => call nnn
  | .seImm x nn => seImm x nn
  | .sneImm x nn => sneImm x nn
  | .seReg x y => seReg x y
  | .ldImm x nn => ldImm x nn
  | .addImm x nn => addImm x nn
  | .ldReg x y => ldReg x y
  | .orReg x y => orReg x y
  | .andReg x y => andReg x y
  | .xorReg x y => xorReg x y
  | .addReg x y => addReg x y
  | .sub x y => sub x y
  | .shr x y => shr x y
  | .subn x y => subn x y
  | .shl x y => shl x y
  | .sneReg x y => sneReg x y
  | .ldI nnn => ldI nnn
  | .jpV0 nnn => jpV0 nnn
  | .rnd x nn => rnd x nn
  | .drw x y n => drw x y n
  | .skp x => skp x
  | .sknp x => sknp x
  | .ldVxDT x => ldVxDT x
  | .ldVxK x => ldVxK x
  | .ldDTVx x => ldDTVx x
  | .ldSTVx x => ldSTVx x
  | .addI x => addI x
  | .ldF x => ldF x
  | .ldB x => ldB x
  | .ldMemVx x => ldMemVx x
  | .ldVxMem x => ldVxMem x

end Sys2Proof.Laws.EncodedRow
end

