-- ==== Sys2Proof/Laws/Sprite.lean ====
section
/-! SUPPORT. Which pixels a sprite toggles: those its set bits land on, each once. -/

namespace Sys2Proof.Machine

theorem mem_rowPixels (vx vy r : Nat) (row : Byte) (k : Nat) :
    k ∈ rowPixels vx vy r row ↔
      ∃ c, c < 8 ∧ row.getLsbD (7 - c) = true ∧ k = pixelIndex (vx + c) (vy + r) := by
  simp only [rowPixels, List.mem_map, List.mem_filter, List.mem_range]
  constructor
  · rintro ⟨c, ⟨h1, h2⟩, rfl⟩
    exact ⟨c, h1, h2, rfl⟩
  · rintro ⟨c, h1, h2, rfl⟩
    exact ⟨c, ⟨h1, h2⟩, rfl⟩

theorem mem_spritePixels (vx vy r0 : Nat) (rows : List Byte) (k : Nat) :
    k ∈ spritePixels vx vy r0 rows ↔
      ∃ r c, ∃ h : r < rows.length,
        c < 8 ∧ rows[r].getLsbD (7 - c) = true ∧ k = pixelIndex (vx + c) (vy + (r0 + r)) := by
  induction rows generalizing r0 with
  | nil => simp [spritePixels]
  | cons row rows ih =>
    simp only [spritePixels, List.mem_append, mem_rowPixels, ih]
    constructor
    · rintro (⟨c, h1, h2, h3⟩ | ⟨r, c, h, h1, h2, h3⟩)
      · exact ⟨0, c, by simp, h1, h2, h3⟩
      · exact ⟨r + 1, c, by simp; omega, h1, by simpa using h2, by rw [h3]; congr 1; omega⟩
    · rintro ⟨r, c, h, h1, h2, h3⟩
      cases r with
      | zero => exact .inl ⟨c, h1, h2, h3⟩
      | succ r => exact .inr ⟨r, c, by simpa using h, h1, by simpa using h2, by rw [h3]; congr 1; omega⟩

theorem nodup_rowPixels (vx vy r : Nat) (row : Byte) : (rowPixels vx vy r row).Nodup := by
  unfold rowPixels
  refine List.Nodup.map_on ?_ (List.nodup_range.filter _)
  intro a ha b hb h
  simp only [List.mem_filter, List.mem_range] at ha hb
  simp only [pixelIndex] at h
  omega

/-- No pixel is touched twice: 8 columns of 64, at most 32 rows of 32 (R152, derived there). -/
theorem nodup_spritePixels (vx vy r0 : Nat) (rows : List Byte) (h : rows.length ≤ 32) :
    (spritePixels vx vy r0 rows).Nodup := by
  induction rows generalizing r0 with
  | nil => simp [spritePixels]
  | cons row rows ih =>
    simp only [List.length_cons] at h
    rw [spritePixels, List.nodup_append]
    refine ⟨nodup_rowPixels _ _ _ _, ih _ (by omega), ?_⟩
    rintro a ha b hb rfl
    obtain ⟨c, h1, h2, h3⟩ := (mem_rowPixels _ _ _ _ _).mp ha
    obtain ⟨r', c', h4, h5, h6, h7⟩ := (mem_spritePixels _ _ _ _ _).mp hb
    rw [h3] at h7
    simp only [pixelIndex] at h7
    omega

end Sys2Proof.Machine
end

