-- ==== Sys2Proof/Tests/Slice0.lean ====
section
/-! SUPPORT. Small tests, each with its expected result from spec 95_test_vectors.md (the vector's name stands beside
it) or from the rule named; and for every statement with hypotheses, a witness that meets them. -/

namespace Sys2Proof.Tests

open Sys2Proof.Machine

/-- The reset state of the vectors, with concrete draws: `rnd = 0xA7` (A51), and a choice. -/
def s0 : State := State.resetWith defaultParams 0xA7 3 0

/-- The state after one STEP. -/
def run (s : State) : State :=
  match step s with
  | .next t => t
  | .fault _ => s
  | .refused _ => s

/-- The state after one STEP that runs the word `w`, placed at `PC`. -/
def after (s : State) (w : Nat) : State := run (s.withFetchWord 16 w)

/-- `bytes` in memory from address `a` on. -/
def memAt (s : State) (a : Nat) (bytes : List Byte) : State :=
  { s with mem := Memory.writeList s.params s.mem a bytes }

/-- The keys of a list pressed. -/
def press (s : State) (ks : List (Fin 16)) : State := ks.foldl (fun t k => t.setKeyAt k true) s

/-! ### The checks of WellFormed.lean refuse ill-formed data -/

/-- One word of each class of R76, and its neighbours (vectors 2.7). -/
theorem test_ill_formed_words :
    [0x0001, 0x00DF, 0x0FFF, 0x5AB1, 0x8ABD, 0x8AB8, 0x9ABF, 0xEA9F, 0xEA00, 0xFA00, 0xFA75, 0xFFFF].all
      (fun w => !instructionWord w) = true := by decide

theorem test_long_image_refused : imageFits (List.replicate 3585 0xAA) = false := by decide +kernel

theorem test_longest_image_fits : imageFits (List.replicate 3584 0xAA) = true := by decide +kernel

theorem test_key_index_refused : keyIndexOk 16 = false ∧ keyIndexOk 15 = true := by decide

theorem test_noncanonical_shifts : (Instr.shr 1 2).canonical = false ∧ (Instr.shl 1 2).canonical = false ∧
    (Instr.shr 1 0).canonical = true := by decide

/-! ### Decoding: a word of every row of R74, bit by bit -/

theorem test_decode_exact_words :
    decodeWord 0b0000000000000000#16 = some .nop ∧
    decodeWord 0b0000000011100000#16 = some .cls ∧
    decodeWord 0b0000000011101110#16 = some .ret := by decide

theorem test_decode_address_words :
    decodeWord 0b0001101010111100#16 = some (.jp 0xABC) ∧
    decodeWord 0b0010111111111111#16 = some (.call 0xFFF) ∧
    decodeWord 0b1010001011110000#16 = some (.ldI 0x2F0) ∧
    decodeWord 0b1011001100000000#16 = some (.jpV0 0x300) := by decide

theorem test_decode_immediate_words :
    decodeWord 0b0011001100101010#16 = some (.seImm 0x3 0x2A) ∧
    decodeWord 0b0100001100101010#16 = some (.sneImm 0x3 0x2A) ∧
    decodeWord 0b0110101001111111#16 = some (.ldImm 0xA 0x7F) ∧
    decodeWord 0b0111000011111111#16 = some (.addImm 0x0 0xFF) ∧
    decodeWord 0b1100001100001111#16 = some (.rnd 0x3 0x0F) := by decide

theorem test_decode_register_words :
    decodeWord 0b0101000100100000#16 = some (.seReg 0x1 0x2) ∧
    decodeWord 0b1001000100100000#16 = some (.sneReg 0x1 0x2) ∧
    decodeWord 0b1000000100100000#16 = some (.ldReg 0x1 0x2) ∧
    decodeWord 0b1000000100100001#16 = some (.orReg 0x1 0x2) ∧
    decodeWord 0b1000000100100010#16 = some (.andReg 0x1 0x2) ∧
    decodeWord 0b1000000100100011#16 = some (.xorReg 0x1 0x2) ∧
    decodeWord 0b1000000100100100#16 = some (.addReg 0x1 0x2) ∧
    decodeWord 0b1000000100100101#16 = some (.sub 0x1 0x2) := by decide

theorem test_decode_shift_and_draw_words :
    decodeWord 0b1000111100010110#16 = some (.shr 0xF 0x1) ∧
    decodeWord 0b1000101010110111#16 = some (.subn 0xA 0xB) ∧
    decodeWord 0b1000101010111110#16 = some (.shl 0xA 0xB) ∧
    decodeWord 0b1101011110100101#16 = some (.drw 0x7 0xA 0x5) := by decide

theorem test_decode_key_and_timer_words :
    decodeWord 0b1110101010011110#16 = some (.skp 0xA) ∧
    decodeWord 0b1110101010100001#16 = some (.sknp 0xA) ∧
    decodeWord 0b1111101000000111#16 = some (.ldVxDT 0xA) ∧
    decodeWord 0b1111101000001010#16 = some (.ldVxK 0xA) ∧
    decodeWord 0b1111101000010101#16 = some (.ldDTVx 0xA) ∧
    decodeWord 0b1111101000011000#16 = some (.ldSTVx 0xA) := by decide

theorem test_decode_index_words :
    decodeWord 0b1111101000011110#16 = some (.addI 0xA) ∧
    decodeWord 0b1111101000101001#16 = some (.ldF 0xA) ∧
    decodeWord 0b1111101000110011#16 = some (.ldB 0xA) ∧
    decodeWord 0b1111101001010101#16 = some (.ldMemVx 0xA) ∧
    decodeWord 0b1111101001100101#16 = some (.ldVxMem 0xA) := by decide

/-- R75: two different rows differ in a bit that both masks fix, so no word matches both. -/
theorem test_rows_disjoint :
    opcodeTable.Pairwise (fun r q => r.value &&& q.mask ≠ q.value &&& r.mask) := by decide

theorem test_decode_bytes :
    decodeBytes [0x12, 0x34, 0x56] = .ok (.jp 0x234, [0x56]) ∧ decodeBytes [0x12] = .error .tooShort ∧
    decodeBytes [0x01, 0x23] = .error (.unimplemented 0x0123) := by decide

/-! ### Control transfer -/

/-- T1. -/
theorem test_nop : (after s0 0x0000).pc = 0x202 := by decide

/-- T4. -/
theorem test_ret : let t := after { s0 with sp := 16, stack := s0.stack.set 15 0xABC } 0x00EE
    t.pc = 0xABC ∧ t.sp = 15 ∧ t.stack[15] = 0xABC := by decide

/-- T3. -/
theorem test_ret_underflow : let t := after s0 0x00EE
    t.fault = some .stackUnderflow ∧ t.pc = 0x200 := by decide

/-- T8. -/
theorem test_jp_odd : (after s0 0x1201).pc = 0x201 := by decide

/-- T10. -/
theorem test_call : let t := after { s0 with sp := 15 } 0x2210
    t.pc = 0x210 ∧ t.sp = 16 ∧ t.stack[15] = 0x202 := by decide

/-- T11, X5. -/
theorem test_call_overflow : let t := after { s0 with sp := 16 } 0x2210
    t.fault = some .stackOverflow ∧ t.pc = 0x200 ∧ t.stack[15] = 0 := by decide

/-- T12, T13. -/
theorem test_se_imm : (after (s0.setReg 3 0x2A) 0x332A).pc = 0x204 ∧ (after (s0.setReg 3 0x2B) 0x332A).pc = 0x202 := by
  decide

/-- T28, F6. -/
theorem test_se_imm_past_end : (after { s0 with pc := 0xFFE } 0x3000).pc = 0x1002 := by decide

/-- T15, T16. -/
theorem test_sne_imm : (after (s0.setReg 3 0x2A) 0x432A).pc = 0x202 ∧ (after s0 0x432A).pc = 0x204 := by decide

/-- T17, T18. -/
theorem test_se_reg : (after ((s0.setReg 1 7).setReg 2 7) 0x5120).pc = 0x204 ∧
    (after ((s0.setReg 1 7).setReg 2 8) 0x5120).pc = 0x202 := by decide

/-- T21, T23. -/
theorem test_sne_reg : (after ((s0.setReg 1 7).setReg 2 8) 0x9120).pc = 0x204 ∧
    (after (s0.setReg 1 9) 0x9110).pc = 0x202 := by decide

/-- T26, T27. -/
theorem test_jp_v0 : (after (s0.setReg 0 0xFF) 0xBFFF).pc = 0x10FE ∧ (after (s0.setReg 3 0x10) 0xB300).pc = 0x300 := by
  decide

/-! ### The ALU -/

/-- A2. -/
theorem test_ld_imm : (after s0 0x6F05).reg 15 = 5 := by decide

/-- A6. -/
theorem test_add_imm : let t := after ((s0.setReg 0 0xFF).setReg 15 7) 0x7001
    t.reg 0 = 0 ∧ t.reg 15 = 7 := by decide

/-- A7. -/
theorem test_ld_reg : (after (s0.setReg 2 0x33) 0x8120).reg 1 = 0x33 := by decide

/-- A9. -/
theorem test_or : let t := after (((s0.setReg 1 0xF0).setReg 2 0x0F).setReg 15 9) 0x8121
    t.reg 1 = 0xFF ∧ t.reg 15 = 9 := by decide

/-- A10. -/
theorem test_and : (after ((s0.setReg 1 0xF3).setReg 2 0x3F) 0x8122).reg 1 = 0x33 := by decide

/-- A11. -/
theorem test_xor : (after ((s0.setReg 1 0xFF).setReg 2 0x0F) 0x8123).reg 1 = 0xF0 := by decide

/-- A13. -/
theorem test_add : let t := after ((s0.setReg 1 0xC8).setReg 2 0x64) 0x8124
    t.reg 1 = 0x2C ∧ t.reg 15 = 1 := by decide

/-- A20, A21: `VF` as the destination and as the addend. -/
theorem test_add_vf : (after ((s0.setReg 15 0x10).setReg 1 0x20) 0x8F14).reg 15 = 0 ∧
    (after ((s0.setReg 1 0xFF).setReg 15 1) 0x81F4).reg 1 = 0 := by decide

/-- A23. -/
theorem test_sub : let t := after ((s0.setReg 1 5).setReg 2 0xA) 0x8125
    t.reg 1 = 0xFB ∧ t.reg 15 = 0 := by decide

/-- A25 (equal operands), A30 (`x = F`). -/
theorem test_sub_flag : (after ((s0.setReg 1 7).setReg 2 7) 0x8125).reg 15 = 1 ∧
    (after ((s0.setReg 15 0xA).setReg 1 5) 0x8F15).reg 15 = 1 := by decide

/-- A36. -/
theorem test_shr : let t := after (s0.setReg 1 0xFF) 0x8126
    t.reg 1 = 0x7F ∧ t.reg 15 = 1 ∧ t.reg 2 = 0 := by decide

/-- A37. -/
theorem test_shr_vf : (after (s0.setReg 15 7) 0x8F06).reg 15 = 0 := by decide

/-- A40. -/
theorem test_subn : let t := after ((s0.setReg 1 0xA).setReg 2 5) 0x8127
    t.reg 1 = 0xFB ∧ t.reg 15 = 0 := by decide

/-- A42. -/
theorem test_subn_vf : (after ((s0.setReg 15 5).setReg 1 0xA) 0x8F17).reg 15 = 1 := by decide

/-- A44. -/
theorem test_shl : let t := after (s0.setReg 1 0x81) 0x810E
    t.reg 1 = 2 ∧ t.reg 15 = 1 := by decide

/-- A49. -/
theorem test_shl_vf : (after (s0.setReg 15 0x81) 0x8F0E).reg 15 = 2 := by decide

/-- A51. -/
theorem test_rnd : (after s0 0xC30F).reg 3 = 7 := by decide

/-! ### The index register, loads and stores -/

/-- M1. -/
theorem test_ld_i : (after s0 0xA2F0).i = 0x2F0 := by decide

/-- M5, M7. -/
theorem test_add_i : (after ({ s0 with i := 0xFFF }.setReg 2 1) 0xF21E).i = 0x1000 ∧
    (after ({ s0 with i := 0xFF80 }.setReg 2 0xFF) 0xF21E).i = 0x7F := by decide

/-- M11. -/
theorem test_ld_f : (after (s0.setReg 4 0xFF) 0xF429).i = 0x4FB := by decide

/-- M12. -/
theorem test_bcd : let t := after ({ s0 with i := 0x300 }.setReg 0 0xEA) 0xF033
    [t.byteAt 0x300, t.byteAt 0x301, t.byteAt 0x302, t.byteAt 0x303] = [2, 3, 4, 0] := by decide

/-- M18, M20. -/
theorem test_bcd_out_of_bounds :
    (after { s0 with i := 0xFFE } 0xF033).fault = some (.memoryOutOfBounds 0x1000) ∧
    (after { s0 with i := 0xFFFF } 0xF033).fault = some (.memoryOutOfBounds 0xFFFF) := by decide

/-- M21. -/
theorem test_store : let t := after ({ s0 with i := 0x400 }.setRegs [0x11, 0x22, 0x33, 0x44]) 0xF255
    [t.byteAt 0x400, t.byteAt 0x401, t.byteAt 0x402, t.byteAt 0x403] = [0x11, 0x22, 0x33, 0] ∧ t.i = 0x400 := by decide

/-- M25: no partial store. -/
theorem test_store_out_of_bounds : let t := after ({ s0 with i := 0xFFF }.setRegs [1, 2]) 0xF155
    t.fault = some (.memoryOutOfBounds 0x1000) ∧ t.byteAt 0xFFF = 0 := by decide

/-- M26. -/
theorem test_load : let t := after ((memAt { s0 with i := 0x400 } 0x400 [0x11, 0x22, 0x33, 0x44]).setReg 3 0x99) 0xF265
    [t.reg 0, t.reg 1, t.reg 2, t.reg 3] = [0x11, 0x22, 0x33, 0x99] := by decide

/-- X3: no partial load. -/
theorem test_load_out_of_bounds : let t := after (memAt { s0 with i := 0xFFE } 0xFFE [0xAA, 0xBB]) 0xF265
    t.fault = some (.memoryOutOfBounds 0x1000) ∧ t.reg 0 = 0 := by decide

/-! ### The display -/

/-- G1. -/
theorem test_cls : (after { s0 with fb := BitVec.twoPow 2048 2047 ||| 1#2048 } 0x00E0).fb = 0 := by decide +kernel

/-- G6: the sprite wraps in its own row. -/
theorem test_drw_wraps :
    let t := after ((memAt { s0 with i := 0x300 } 0x300 [0xFF]).setRegs [0, 0x3C, 5]) 0xD121
    (List.range 2048).filter (fun k => t.pixel k) = [320, 321, 322, 323, 380, 381, 382, 383] := by decide +kernel

/-- G5. -/
theorem test_drw_collides : let t := after (memAt { s0 with i := 0x300, fb := 0x18#2048 } 0x300 [0xF0]) 0xD011
    t.fb = 0x17#2048 ∧ t.reg 15 = 1 := by decide +kernel

/-! ### The keypad and the timers -/

/-- K3, K4. -/
theorem test_skp : (after ((press s0 [0xF]).setReg 2 0xF) 0xE29E).pc = 0x204 ∧
    (after ((press s0 [0]).setReg 2 0x10) 0xE29E).fault = some (.keyIndexOutOfRange 0x10) := by decide

/-- K6, K8. -/
theorem test_sknp : (after (s0.setReg 2 0xA) 0xE2A1).pc = 0x204 ∧
    (after (s0.setReg 2 0x10) 0xE2A1).fault = some (.keyIndexOutOfRange 0x10) := by decide

/-- K11. -/
theorem test_ld_vx_dt : (after { s0 with dt := 0x3C } 0xF507).reg 5 = 0x3C := by decide

/-- K13. -/
theorem test_key_wait : let t := after (s0.setReg 3 0x55) 0xF30A
    t.pc = 0x200 ∧ t.reg 3 = 0x55 := by decide

/-- K17, K18. -/
theorem test_key_pick :
    (after (press { s0 with params := ⟨defaultFont, .lowest⟩ } [2, 9]) 0xF30A).reg 3 = 2 ∧
    (after (press { s0 with params := ⟨defaultFont, .highest⟩ } [2, 9]) 0xF30A).reg 3 = 9 := by decide

/-- K19. -/
theorem test_ld_dt : (after (s0.setReg 5 0x3C) 0xF515).dt = 0x3C := by decide

/-- K21. -/
theorem test_ld_st : let t := after (s0.setReg 5 2) 0xF518
    t.st = 2 ∧ t.soundActive = true := by decide

/-! ### STEP and the host's operations -/

/-- F1, F3. -/
theorem test_fetch_bound : (after { s0 with pc := 0xFFE } 0x6A01).pc = 0x1000 ∧
    (run { s0 with pc := 0xFFF }).fault = some (.fetchOutOfBounds 0xFFF) := by decide

/-- F5: an odd `PC`. -/
theorem test_odd_pc : let t := after { s0 with pc := 0x201 } 0x6A55
    t.pc = 0x203 ∧ t.reg 10 = 0x55 := by decide

/-- F7: the first font bytes, as an instruction. -/
theorem test_font_as_code : (run { s0 with pc := 0 }).fault = some (.unimplementedOpcode 0xF090) := by decide

/-- H6 (DT at 3, five ticks) and H3. -/
theorem test_tick : ({ s0 with dt := 3, st := 1 }.hostRun (List.replicate 5 .tickTimers)).dt = 0 ∧
    ({ s0 with st := 1 }.tickOp).soundActive = false := by decide

/-- H7, H9. -/
theorem test_set_key : (s0.setKeyOp 0 true).1.key[0] = true ∧
    (s0.setKeyOp 16 true).2 = .error (.keyIndexError 16) ∧ (s0.setKeyOp 16 true).1.fault = none := by decide

/-- L4. -/
theorem test_load_image : let t := s0.hostRun [.load [1, 2, 3, 4], .load [9, 9]]
    (List.range 6).map (fun k => t.byteAt (0x200 + k)) = [9, 9, 3, 4, 0, 0] ∧ t.pc = 0x200 := by decide

/-- The faulted machine of 2.7 (image `60 05 FF FF`), then RESET. -/
theorem test_faulted_machine :
    let t := s0.hostRun [.load [0x60, 0x05, 0xFF, 0xFF], .step 0 0, .step 0 0]
    t.fault = some (.unimplementedOpcode 0xFFFF) ∧ t.pc = 0x202 ∧ t.reg 0 = 5 ∧
    (t.hostOp .reset).1.byteAt 0x200 = 0 ∧ (t.hostOp .reset).1.fault = none := by decide

/-- R190's codes. -/
theorem test_codes : (Cause.keyIndexOutOfRange 16).code = 6 ∧ (HostError.loadOverflow 3585).code = 7 := by decide

/-! ### Witnesses: a state and operands that meet the hypotheses of each statement -/

theorem witness_RetPopsTopEntry :
    ((0 : Fin 16).val + 1 = ({ s0 with sp := 1 } : State).sp.val) ∧
    ((15 : Fin 16).val + 1 = ({ s0 with sp := 16 } : State).sp.val) ∧ s0.sp.val = 0 := by decide

theorem witness_JpSetsPc : ({ s0 with pc := 0xFFF } : State).pc.toNat = (0xFFF : BitVec 12).toNat := by decide

theorem witness_CallPushesAndJumps :
    ((15 : Fin 16).val = ({ s0 with sp := 15 } : State).sp.val) ∧ (0 : Fin 16).val = s0.sp.val ∧
    ({ s0 with sp := 16 } : State).sp.val = 16 := by decide

theorem witness_NopOnlyAdvances : (1 ≤ (0x00DF : Word).toNat ∧ (0x00DF : Word).toNat ≤ 0x00DF) ∧
    decodeWord 0 = some .nop := by decide

theorem witness_AluNotVF : (14 : Reg) ≠ VF ∧ (15 : Reg) = VF := by decide

theorem witness_LdBStoresDigits : ({ s0 with i := 0xFFD } : State).i.toNat + 2 ≤ 0xFFF ∧
    ({ s0 with i := 0xFFE } : State).i.toNat + 2 > 0xFFF := by decide

theorem witness_LdMemVxAndLdVxMem : ({ s0 with i := 0xFF0 } : State).i.toNat + (15 : Reg).val ≤ 0xFFF ∧
    ({ s0 with i := 0xFF1 } : State).i.toNat + (15 : Reg).val > 0xFFF ∧ (15 : Reg) ≤ 15 ∧ (0 : Reg) ≤ 0 := by decide

/-- Two registers are dumped at 0xFFE, then loaded in the state that the dump leaves, its registers zeroed (S9). -/
theorem witness_DumpThenLoadRestores :
    let s := { s0 with i := 0xFFE }.setRegs [1, 2]
    s.i.toNat + (1 : Reg).val ≤ 0xFFF ∧ ∃ t u : State, exec (.ldMemVx 1) s = .next t ∧ u.i = t.i ∧
      (∀ a, u.byteAt a = t.byteAt a) ∧ u.reg 0 = 0 ∧ u.byteAt 0xFFF = 2 := by
  intro s
  have h : exec (.ldMemVx 1) s = .next _ := execLdMemVx_ok 1 s (by decide)
  exact ⟨by decide, _, State.setRegs _ [0, 0], h, State.setRegs_i _ _, fun _ => State.setRegs_byteAt _ _ _,
    by decide, by decide⟩

theorem witness_DrwFlipsSpritePixels :
    ((0 : Fin 16).val = 0 ∨ ({ s0 with i := 0xFFFF } : State).i.toNat + (0 : Fin 16).val - 1 ≤ 0xFFF) ∧
    ({ s0 with i := 0xFFF } : State).i.toNat + (1 : Fin 16).val - 1 ≤ 0xFFF ∧
    (1 ≤ (2 : Fin 16).val ∧ ({ s0 with i := 0xFFF } : State).i.toNat + (2 : Fin 16).val - 1 > 0xFFF) := by decide

/-- The corner pixel (63, 31), set before; the sprite 0x80 drawn at (63, 31) covers it, and only it. -/
theorem witness_DrwCollision :
    let s := memAt ({ s0 with i := 0x300, fb := BitVec.twoPow 2048 2047 }.setRegs [63, 31]) 0x300 [0x80]
    s.pixel (63 + 64 * 31) = true ∧ SpriteCovers 0 1 1 s 63 31 := by
  refine ⟨by decide +kernel, 0, 0, by decide, by decide, by decide +kernel, by decide +kernel, by decide +kernel⟩

theorem witness_DrawingTwiceRestores :
    let s := memAt { s0 with i := 0xFFF } 0xFFF [0xF0]
    (0 : Reg) ≠ VF ∧ s.i.toNat + (1 : Fin 16).val ≤ 0x1000 ∧
    (s.pixel (0 + 64 * 0) = false ∧ SpriteCovers 0 1 1 s 0 0) ∧
    ∃ t u, exec (.drw 0 1 1) s = .next t ∧ exec (.drw 0 1 1) t = .next u := by
  intro s
  obtain ⟨t, ht⟩ : ∃ t, exec (.drw 0 1 1) s = .next t := by
    rw [exec, execDrw]; exact State.commit_next _ _
  obtain ⟨u, hu⟩ : ∃ u, exec (.drw 0 1 1) t = .next u := by
    rw [exec, execDrw]; exact State.commit_next _ _
  exact ⟨by decide, by decide, ⟨by decide +kernel, 0, 0, by decide, by decide, by decide +kernel, by decide, by decide⟩, t, u, ht, hu⟩

theorem witness_SkipsOnKey : ((s0.setReg 2 0xF).reg 2).toNat = (15 : Fin 16).val ∧
    ((s0.setReg 2 0x10).reg 2).toNat > 15 := by decide

theorem witness_KeyWaitPicksPressedKey :
    (∀ k : Fin 16, s0.key[k.val] = false) ∧ (press s0 [0, 15]).key[(15 : Fin 16).val] = true ∧
    s0.params.keywaitPick = .any := by decide

/-- A sprite drawn on a clear screen meets no set pixel. -/
theorem witness_DrwNoCollision :
    let s := memAt { s0 with i := 0x300 } 0x300 [0xFF]
    ∀ px py, px < 64 → py < 32 → s.pixel (px + 64 * py) = true → ¬ SpriteCovers 0 1 1 s px py := by
  intro s px py _ _ h
  have hc : s.pixel (px + 64 * py) = false := by simp [s, memAt, s0, State.resetWith, State.pixel]
  simp [hc] at h

theorem witness_EncodeOfDecode : decodeWord 0x8AF6 = some (.shr 0xA 0xF) ∧ encode (.shr 0xA 0xF) = 0x8AF6 := by decide

theorem witness_DecodeFollowsTable : decodeWord 0x5AB0 = some (.seReg 0xA 0xB) ∧ decodeWord 0x5AB1 = none := by decide

theorem witness_FetchIsBigEndianAndBounded :
    ({ s0 with pc := 0xFFE } : State).pc.toNat ≤ 0xFFE ∧
    ({ s0 with pc := 0xFFF } : State).pc.toNat > 0xFFE ∧ s0.fault = none := by decide

theorem witness_StepRunsDecodedInstruction :
    let s := memAt { s0 with pc := 0xFFE } 0xFFE [0x2F, 0xFF]
    s.fault = none ∧ s.pc.toNat ≤ 0xFFE ∧
    decodeWord (wordOfBytes (s.byteAt s.pc.toNat) (s.byteAt (s.pc.toNat + 1))) = some (.call 0xFFF) := by decide

/-- A host STEP that draws 0x5A for the word `C30F`: `step` with those inputs answers a next state, whose `V3` is the
drawn byte masked (R132), and so does the operation. -/
theorem witness_HostStepDraws :
    let s := s0.withFetchWord 16 0xC30F
    s.fault = none ∧ (∃ t, step { s with rnd := 0x5A, choice := 1 } = .next t) ∧
    (s.hostOp (.step 0x5A 1)).1.reg 3 = 0x0A := by
  refine ⟨rfl, ⟨_, rfl⟩, by decide⟩

theorem witness_UnimplementedWordRaises :
    let s := memAt s0 0x200 [0x00, 0x01]
    s.fault = none ∧ s.pc.toNat ≤ 0xFFE ∧ wordOfBytes (s.byteAt s.pc.toNat) (s.byteAt (s.pc.toNat + 1)) = 0x0001 ∧
    decodeWord 0x0001 = none := by decide

theorem witness_PlacedWordRunsNext : decodeTableWord 16 0xD7A5 = some (.drw 7 0xA 5) := by decide

theorem witness_FaultsArePrecise :
    let s := { s0 with pc := 0x10FE }
    s.fault = none ∧ ∃ t, step s = .next t ∧ t.fault ≠ none := by
  refine ⟨by decide, _, rfl, by decide⟩

theorem witness_WritesOnlyWhatTheTableLists :
    Instr.mayRaise (.call 0) { s0 with sp := 15 } = none ∧ ∃ t, exec (.call 0) { s0 with sp := 15 } = .next t := by
  refine ⟨by decide, _, rfl⟩

/-- A STEP that changes `DT`, and one that changes `ST`. -/
theorem witness_StepLeavesKeysAndTimers :
    (after (s0.setReg 5 0x3C) 0xF515).dt ≠ s0.dt ∧ (after (s0.setReg 5 0x3C) 0xF518).st ≠ s0.st ∧
    ∃ t, step s0 = .next t := by
  refine ⟨by decide, by decide, _, rfl⟩

theorem witness_SoundTimerIsNotRead : (∃ t, step s0 = .next t) ∧ s0.st ≠ 1 := ⟨⟨_, rfl⟩, by decide⟩

/-- Stacks that agree below `SP = 1` and differ above. -/
theorem witness_StaleStackEntriesAreNotRead :
    let s := { s0 with sp := 1 }
    (∀ k : Fin 16, k.val < s.sp.val → (s.stack.set 15 7)[k.val] = s.stack[k.val]) ∧
    s.stack.set 15 7 ≠ s.stack ∧ ∃ t, step s = .next t := by
  refine ⟨by decide, by decide, _, rfl⟩

theorem witness_EqualMemoriesAreEqualData :
    Memory.wf defaultParams [(0, 1), (0xFFF, 2)] = true ∧ Memory.wf defaultParams [(0x1000, 1)] = false ∧
    Memory.wf defaultParams [(0, 0xF0)] = false ∧ Memory.wf defaultParams [(2, 1), (1, 1)] = false := by decide

theorem witness_WriteIsSeenByReadAndFetch :
    (∃ t, ({ s0 with pc := 0xFFE } : State).memWrite 0xFFE 0x12 = .ok t) ∧
    (∃ t, ({ s0 with pc := 0xFFE } : State).memWrite 0xFFF 0x12 = .ok t) ∧
    ({ s0 with pc := 0xFFE } : State).pc.toNat = 0xFFE := by
  refine ⟨⟨_, rfl⟩, ⟨_, rfl⟩, by decide⟩

/-- The premises of `StepKeepsMemoryForm`, `StepKeepsPcBound` and `EveryRunKeepsTheInvariants`, in a state with a listed byte, a used stack entry and the greatest `PC` of R24. -/
theorem witness_Invariants :
    let s := memAt { s0 with pc := 0x10FE, sp := 1, stack := s0.stack.set 0 0x1000 } 0xFFF [7]
    MemoryInv s ∧ PcInv s ∧ ∃ t, step s = .next t := by
  refine ⟨by unfold MemoryInv; decide, ⟨by decide, by decide⟩, _, rfl⟩

theorem witness_FaultedMachineIsInert :
    ({ s0 with fault := some .stackOverflow } : State).fault = some .stackOverflow ∧
    ({ s0 with fault := some .stackOverflow } : State).fault ≠ none := by decide

theorem witness_TickCountsDown : s0.fault = none ∧ ({ s0 with dt := 1 } : State).fault = none := ⟨rfl, rfl⟩

theorem witness_SetKeySetsOneKey : s0.fault = none ∧ ∃ k : Fin 16, k.val = 15 := ⟨rfl, 15, rfl⟩

theorem witness_LoadWritesExactlyTheImage :
    (List.replicate 3584 (0xAA : Byte)).length ≤ 3584 ∧ (List.replicate 3585 (0xAA : Byte)).length > 3584 := by
  rw [List.length_replicate, List.length_replicate]
  decide

end Sys2Proof.Tests
end

/-! # What an instruction does, in closed form

`Instr.effect` is the next state of an instruction that raises no fault, as one composition of updates; `exec_effect`
and `exec_raises` tie it to `exec`, on the two sides of `Instr.mayRaise`. The frames, the bounds of R24 and the two
statements on what a STEP does not read are then facts about `effect`. -/

section

namespace Sys2Proof.Machine

/-- The state after a push (R26): the entry at `SP`, and `SP` one deeper. Used below depth 16 only. -/
def State.pushed (s : State) (w : Word) : State :=
  { s with stack := s.stack.setIfInBounds s.sp.val w, sp := Fin.ofNat 17 (s.sp.val + 1) }

/-- The entry that a pop reads (R26). Used above depth 0 only. -/
def State.top (s : State) : Word := s.stack[s.sp.val - 1]'(by have := s.sp.isLt; omega)

/-- The state after a pop (R26): the entry keeps its bits. -/
def State.popped (s : State) : State := { s with sp := ⟨s.sp.val - 1, by have := s.sp.isLt; omega⟩ }

/-- The state after a store of `bytes` at `I` upward (R62, R140). -/
def State.stored (s : State) (bytes : List Byte) : State :=
  { s with mem := Memory.writeList s.params s.mem s.i.toNat bytes }

/-- `n` bytes from `I` upward (R62, R140). -/
def State.loaded (s : State) (n : Nat) : List Byte := (List.range n).map fun k => s.byteAt (s.i.toNat + k)

/-- The key that a byte names, up when the byte names none (R30, R197). -/
def State.keyDown (s : State) (k : Byte) : Bool := s.key[k.toNat]?.getD false

/-- The framebuffer and the collision that `Dxyn` leaves (R152). -/
def State.blit (s : State) (x y : Reg) (n : Fin 16) : BitVec 2048 × Bool :=
  toggle (drawnPixels x y n s) (s.fb, false)

/-- `Fx0A` (R163). -/
def State.keyWait (s : State) (x : Reg) : State :=
  match pickKey s.params.keywaitPick s.choice s.pressedKeys with
  | none => s
  | some k => (s.advance.setReg x (keyByte k)).redraw

theorem State.pushed_eq (s : State) (w : Word) (h : s.sp.val < 16) :
    s.pushed w = { s with stack := s.stack.set s.sp.val w, sp := ⟨s.sp.val + 1, by omega⟩ } := by
  have hst : s.stack.setIfInBounds s.sp.val w = s.stack.set s.sp.val w := by
    ext k hk
    rw [Vector.getElem_setIfInBounds, Vector.getElem_set]
  have hsp : Fin.ofNat 17 (s.sp.val + 1) = ⟨s.sp.val + 1, by omega⟩ := Fin.ext (Nat.mod_eq_of_lt (by omega))
  rw [State.pushed, hst, hsp]

theorem execRet_effect (s : State) (h : s.sp.val ≠ 0) : execRet s = .next (s.advance.popped.setPc s.top) :=
  execRet_ok s (by omega)

theorem execCall_effect (nnn : BitVec 12) (s : State) (h : s.sp.val ≠ 16) :
    execCall nnn s = .next ((s.advance.pushed (s.pc + 2)).setPc (zextAddr nnn)) := by
  have hlt : s.sp.val < 16 := by have := s.sp.isLt; omega
  rw [execCall_ok nnn s hlt, State.pushed_eq s.advance _ hlt]
  rfl

theorem execLdVxK_effect (x : Reg) (s : State) : execLdVxK x s = .next (s.keyWait x) := by
  unfold State.keyWait
  split
  next h => exact execLdVxK_none x s h
  next k h => exact execLdVxK_some x s h

theorem State.keyDown_eq (s : State) {k : Byte} (h : k.toNat < 16) : s.keyDown k = s.key[k.toNat] := by
  simp [State.keyDown, h]

end Sys2Proof.Machine

namespace Sys2Proof

open Machine

/-- The state that an instruction leaves when it raises no fault (R101 to R165): the advance of `PC`, then its own
writes in the order of the rule. -/
def Instr.effect (i : Instr) (s : State) : State :=
  match i with
  | .nop => s.advance
  | .cls => s.advance.setFb 0
  | .ret => s.advance.popped.setPc s.top
  | .jp nnn => s.advance.setPc (zextAddr nnn)
  | .call nnn => (s.advance.pushed (s.pc + 2)).setPc (zextAddr nnn)
  | .seImm x nn => s.advance.skipIf (s.reg x == nn)
  | .sneImm x nn => s.advance.skipIf (s.reg x != nn)
  | .seReg x y => s.advance.skipIf (s.reg x == s.reg y)
  | .sneReg x y => s.advance.skipIf (s.reg x != s.reg y)
  | .jpV0 nnn => s.advance.setPc (zextByte (s.reg 0) + zextAddr nnn)
  | .ldImm x nn => s.advance.setReg x nn
  | .addImm x nn => s.advance.setReg x (s.reg x + nn)
  | .ldReg x y => s.advance.setReg x (s.reg y)
  | .orReg x y => s.advance.setReg x (s.reg x ||| s.reg y)
  | .andReg x y => s.advance.setReg x (s.reg x &&& s.reg y)
  | .xorReg x y => s.advance.setReg x (s.reg x ^^^ s.reg y)
  | .addReg x y => (s.advance.setReg x (s.reg x + s.reg y)).setReg VF (carryFlag (s.reg x) (s.reg y))
  | .sub x y => (s.advance.setReg x (s.reg x - s.reg y)).setReg VF (noBorrowFlag (s.reg x) (s.reg y))
  | .subn x y => (s.advance.setReg x (s.reg y - s.reg x)).setReg VF (noBorrowFlag (s.reg y) (s.reg x))
  | .shr x _ =>
    let t := s.advance.setReg VF (lowBitFlag (s.reg x))
    t.setReg x (t.reg x >>> 1)
  | .shl x _ =>
    let t := s.advance.setReg VF (highBitFlag (s.reg x))
    t.setReg x (t.reg x <<< 1)
  | .rnd x nn => (s.advance.setReg x (maskedDraw s.rnd nn)).redraw
  | .ldI nnn => s.advance.setI (zextAddr nnn)
  | .addI x => s.advance.setI (s.i + zextByte (s.reg x))
  | .ldF x => s.advance.setI (glyphAddr (s.reg x))
  | .ldB x => s.advance.stored (bcdDigits (s.reg x))
  | .ldMemVx x => s.advance.stored (s.regsUpTo x)
  | .ldVxMem x => s.advance.setRegs (s.loaded (x.val + 1))
  | .drw x y n => (s.advance.setFb (s.blit x y n).1).setReg VF (collisionFlag (s.blit x y n).2)
  | .skp x => s.advance.skipIf (s.keyDown (s.reg x))
  | .sknp x => s.advance.skipIf !s.keyDown (s.reg x)
  | .ldVxDT x => s.advance.setReg x s.dt
  | .ldVxK x => s.keyWait x
  | .ldDTVx x => s.advance.setDt (s.reg x)
  | .ldSTVx x => s.advance.setSt (s.reg x)

/-- An instruction raises the one fault that it can raise under the fault's condition, and keeps everything else
(R190, R195, R200). -/
theorem exec_raises (i : Instr) (s : State) {c : Cause} (h : i.mayRaise s = some c) :
    exec i s = .next { s with fault := some c } := by
  cases i with
  | call nnn =>
    obtain ⟨hsp, ⟨⟩⟩ := Option.ite_none_right_eq_some.mp h
    exact execCall_error nnn s hsp
  | ret =>
    obtain ⟨hsp, ⟨⟩⟩ := Option.ite_none_right_eq_some.mp h
    exact execRet_error s hsp
  | drw x y n =>
    obtain ⟨⟨hn, hi⟩, ⟨⟩⟩ := Option.ite_none_right_eq_some.mp h
    exact execDrw_error x y n s hn (by omega)
  | ldB x =>
    obtain ⟨hi, ⟨⟩⟩ := Option.ite_none_right_eq_some.mp h
    exact execLdB_error x s hi
  | ldMemVx x =>
    obtain ⟨hi, ⟨⟩⟩ := Option.ite_none_right_eq_some.mp h
    exact execLdMemVx_error x s hi
  | ldVxMem x =>
    obtain ⟨hi, ⟨⟩⟩ := Option.ite_none_right_eq_some.mp h
    exact execLdVxMem_error x s hi
  | skp x =>
    obtain ⟨hk, ⟨⟩⟩ := Option.ite_none_right_eq_some.mp h
    exact execSkp_error x s hk
  | sknp x =>
    obtain ⟨hk, ⟨⟩⟩ := Option.ite_none_right_eq_some.mp h
    exact execSknp_error x s hk
  | _ => cases h

/-- An instruction that raises no fault leaves its `effect`. -/
theorem exec_effect (i : Instr) (s : State) (h : i.mayRaise s = none) : exec i s = .next (i.effect s) := by
  cases i with
  | call nnn => exact execCall_effect nnn s (by simpa [Instr.mayRaise] using h)
  | ret => exact execRet_effect s (by simpa [Instr.mayRaise] using h)
  | drw x y n =>
    have hi : ¬ (1 ≤ n.val ∧ s.i.toNat + n.val - 1 > 0xFFF) := by simpa [Instr.mayRaise] using h
    exact execDrw_ok x y n s (by omega)
  | ldB x => exact execLdB_ok x s (by simpa [Instr.mayRaise] using h)
  | ldMemVx x => exact execLdMemVx_ok x s (by simpa [Instr.mayRaise] using h)
  | ldVxMem x => exact execLdVxMem_ok x s (by simpa [Instr.mayRaise] using h)
  | skp x =>
    have hk : (s.reg x).toNat < 16 := Nat.lt_succ_of_le (by simpa [Instr.mayRaise] using h)
    exact (execSkp_ok x s hk).trans (by rw [Instr.effect, State.keyDown_eq s hk])
  | sknp x =>
    have hk : (s.reg x).toNat < 16 := Nat.lt_succ_of_le (by simpa [Instr.mayRaise] using h)
    exact (execSknp_ok x s hk).trans (by rw [Instr.effect, State.keyDown_eq s hk])
  | ldVxK x => exact execLdVxK_effect x s
  | _ => rfl

/-- What an instruction can do: latch its one fault and keep everything else, or leave its `effect`. -/
theorem exec_cases (i : Instr) (s t : State) (h : exec i s = .next t) :
    (∃ c, i.mayRaise s = some c ∧ t = { s with fault := some c }) ∨ (i.mayRaise s = none ∧ t = i.effect s) := by
  cases hm : i.mayRaise s with
  | some c =>
    rw [exec_raises i s hm] at h
    exact .inl ⟨c, rfl, by cases h; rfl⟩
  | none =>
    rw [exec_effect i s hm] at h
    exact .inr ⟨rfl, by cases h; rfl⟩

/-- What a STEP can do, down to the instruction's `effect`: keep everything, keep everything but the latch, or leave the
`effect` of an instruction fetched at or below 0xFFE. -/
theorem step_effect_cases (s t : State) (h : step s = .next t) :
    t = s ∨ (∃ c, t = { s with fault := some c }) ∨
      ∃ i : Instr, s.pc.toNat ≤ 0xFFE ∧ i.mayRaise s = none ∧ t = i.effect s := by
  obtain ⟨-, rfl⟩ | ⟨-, c, rfl⟩ | ⟨-, hpc, -, i, -, -, hi⟩ := step_cases s t h
  · exact .inl rfl
  · exact .inr (.inl ⟨c, rfl⟩)
  · obtain ⟨c, -, rfl⟩ | ⟨hm, rfl⟩ := exec_cases i s t hi
    · exact .inr (.inl ⟨c, rfl⟩)
    · exact .inr (.inr ⟨i, hpc, hm, rfl⟩)

end Sys2Proof

end


/-! # The frame of every instruction (R34) -/

section

namespace Sys2Proof

open Machine

/-! ### Frames compose -/

theorem Component.same_trans (c : Component) {s t u : State} (h : c.same s t) (h' : c.same t u) : c.same s u := by
  cases c with
  | draw =>
    obtain ⟨hr, hc, hd⟩ := h
    obtain ⟨hr', hc', hd'⟩ := h'
    exact ⟨hr'.trans hr, hc'.trans hc, hd'.trans hd⟩
  | _ => exact Eq.trans h' h

theorem SameBut.mono {s t : State} {W W' : Component → Prop} (h : SameBut s t W) (hw : ∀ c, W c → W' c) :
    SameBut s t W' :=
  fun c hc => h c (mt (hw c) hc)

theorem SameBut.trans {s t u : State} {W W' : Component → Prop} (h : SameBut s t W) (h' : SameBut t u W') :
    SameBut s u fun c => W c ∨ W' c :=
  fun c hc => c.same_trans (h c (mt .inl hc)) (h' c (mt .inr hc))

/-! ### The frame of each update -/

theorem sameBut_refl (s : State) (W : Component → Prop) : SameBut s s W := by
  intro c _
  cases c with
  | draw => exact ⟨rfl, rfl, rfl⟩
  | _ => rfl

theorem sameBut_setPc (s : State) (w : Word) : SameBut s (s.setPc w) (· = .pc) := by
  intro c hc
  cases c with
  | pc => exact absurd rfl hc
  | draw => exact ⟨rfl, rfl, rfl⟩
  | _ => rfl

theorem sameBut_setReg (s : State) (x : Reg) (b : Byte) : SameBut s (s.setReg x b) (· = .v x) := by
  intro c hc
  cases c with
  | v y => exact s.reg_setReg_of_ne b fun h => hc (congrArg Component.v h)
  | draw => exact ⟨rfl, rfl, rfl⟩
  | _ => rfl

theorem sameBut_setRegs (s : State) (bs : List Byte) :
    SameBut s (s.setRegs bs) fun c => ∃ k : Reg, k.val < bs.length ∧ c = .v k := by
  intro c hc
  cases c with
  | v y =>
    have hy : bs.length ≤ y.val := not_lt.mp fun h => hc ⟨y, h, rfl⟩
    simp only [Component.same, State.reg_setRegs, List.getD_eq_default _ _ hy]
  | _ => simp [Component.same]

theorem sameBut_setI (s : State) (w : Word) : SameBut s (s.setI w) (· = .i) := by
  intro c hc
  cases c with
  | i => exact absurd rfl hc
  | draw => exact ⟨rfl, rfl, rfl⟩
  | _ => rfl

theorem sameBut_setDt (s : State) (b : Byte) : SameBut s (s.setDt b) (· = .dt) := by
  intro c hc
  cases c with
  | dt => exact absurd rfl hc
  | draw => exact ⟨rfl, rfl, rfl⟩
  | _ => rfl

theorem sameBut_setSt (s : State) (b : Byte) : SameBut s (s.setSt b) (· = .st) := by
  intro c hc
  cases c with
  | st => exact absurd rfl hc
  | draw => exact ⟨rfl, rfl, rfl⟩
  | _ => rfl

theorem sameBut_setFb (s : State) (fb : BitVec 2048) : SameBut s (s.setFb fb) fun c => ∃ k, c = .pixel k := by
  intro c hc
  cases c with
  | pixel k => exact absurd ⟨k, rfl⟩ hc
  | draw => exact ⟨rfl, rfl, rfl⟩
  | _ => rfl

theorem sameBut_redraw (s : State) : SameBut s s.redraw (· = .draw) := by
  intro c hc
  cases c with
  | draw => exact absurd rfl hc
  | _ => rfl

theorem sameBut_popped (s : State) : SameBut s s.popped (· = .sp) := by
  intro c hc
  cases c with
  | sp => exact absurd rfl hc
  | draw => exact ⟨rfl, rfl, rfl⟩
  | _ => rfl

/-- A push writes the one entry at `SP`, and `SP` (R26). -/
theorem sameBut_pushed (s : State) (w : Word) :
    SameBut s (s.pushed w) fun c => c = .sp ∨ ∃ k : Fin 16, k.val = s.sp.val ∧ c = .stack k := by
  intro c hc
  cases c with
  | sp => exact absurd (.inl rfl) hc
  | stack k => exact Vector.getElem_setIfInBounds_ne _ fun h => hc (.inr ⟨k, h.symm, rfl⟩)
  | draw => exact ⟨rfl, rfl, rfl⟩
  | _ => rfl

/-- A store writes the bytes from the effective address on, as many as are stored (R62, R140). -/
theorem sameBut_stored (s : State) (bs : List Byte) : SameBut s (s.stored bs) (storedAt s bs.length) := by
  intro c hc
  cases c with
  | byte a => exact (s.byteAt_writeList s.i.toNat a bs).trans (if_neg hc)
  | draw => exact ⟨rfl, rfl, rfl⟩
  | _ => rfl

/-! ### The frame of each instruction -/

/-- After the fetch's advance, `PC` joins what the rest of the instruction writes (R71). -/
theorem SameBut.of_advance {s t : State} {W : Component → Prop} (h : SameBut s.advance t W) :
    SameBut s t fun c => c = .pc ∨ W c :=
  (sameBut_setPc s _).trans h

theorem sameBut_skipIf (s : State) (b : Bool) : SameBut s (s.advance.skipIf b) (· = .pc) := by
  rw [State.skipIf_eq]
  exact sameBut_setPc s _

theorem sameBut_keyWait (s : State) (x : Reg) :
    SameBut s (s.keyWait x) fun c => c = .pc ∨ c = .v x ∨ c = .draw := by
  unfold State.keyWait
  split
  · exact sameBut_refl s _
  · exact ((sameBut_setReg _ _ _).trans (sameBut_redraw _)).of_advance

/-- The effect of an instruction changes only what the access table lists for it (R34). -/
theorem effect_frame (i : Instr) (s : State) : SameBut s (i.effect s) (i.writes s) := by
  have hpc {t : State} (h : SameBut s t (· = .pc)) : SameBut s t fun c => c = .pc ∨ False := h.mono fun _ => .inl
  cases i with
  | nop | jp | jpV0 => exact hpc (sameBut_setPc s _)
  | seImm | sneImm | seReg | sneReg | skp | sknp => exact hpc (sameBut_skipIf s _)
  | cls => exact (sameBut_setFb _ _).of_advance
  | ret => exact ((sameBut_popped _).of_advance.trans (sameBut_setPc _ _)).mono fun c h => h.elim id .inl
  | call nnn =>
    exact ((sameBut_pushed _ _).of_advance.trans (sameBut_setPc _ _)).mono fun c h => h.elim id .inl
  | ldImm | addImm | ldReg | orReg | andReg | xorReg | ldVxDT => exact (sameBut_setReg _ _ _).of_advance
  | addReg | sub | subn => exact ((sameBut_setReg _ _ _).trans (sameBut_setReg _ _ _)).of_advance
  | shr | shl =>
    exact (((sameBut_setReg _ _ _).trans (sameBut_setReg _ _ _)).mono fun _ => Or.symm).of_advance
  | ldI | addI | ldF => exact (sameBut_setI _ _).of_advance
  | rnd x nn => exact ((sameBut_setReg _ _ _).trans (sameBut_redraw _)).of_advance
  | ldVxK x => exact sameBut_keyWait s x
  | drw x y n =>
    exact (((sameBut_setFb _ _).trans (sameBut_setReg _ _ _)).mono fun _ => Or.symm).of_advance
  | ldDTVx x => exact (sameBut_setDt _ _).of_advance
  | ldSTVx x => exact (sameBut_setSt _ _).of_advance
  | ldB x => exact (sameBut_stored _ _).of_advance
  | ldMemVx x =>
    have h := (sameBut_stored s.advance (s.regsUpTo x)).of_advance
    rw [State.regsUpTo_length] at h
    exact h
  | ldVxMem x =>
    refine ((sameBut_setRegs _ _).mono ?_).of_advance
    rintro c ⟨k, hk, rfl⟩
    exact ⟨k, Nat.le_of_lt_succ (by simpa [State.loaded] using hk), rfl⟩

/-- CALL and RET aside, no instruction writes `SP` or an entry of the stack (R34). -/
theorem effect_keeps_stack (i : Instr) (s : State) (hret : i ≠ .ret) (hcall : ∀ nnn, i ≠ .call nnn) :
    (i.effect s).sp = s.sp ∧ (i.effect s).stack = s.stack := by
  have hw : ¬ i.writes s .sp ∧ ∀ k, ¬ i.writes s (.stack k) := by
    cases i with
    | ret => exact absurd rfl hret
    | call nnn => exact absurd rfl (hcall nnn)
    | _ => simp [Instr.writes, storedAt]
  obtain ⟨hsp, hstack⟩ := hw
  exact ⟨effect_frame i s .sp hsp, Vector.ext fun k hk => effect_frame i s (.stack ⟨k, hk⟩) (hstack _)⟩

/-- Settles O44, by the frame of the effect that an instruction has when it raises no fault. -/
theorem writesOnlyWhatTheTableLists : Obligations.WritesOnlyWhatTheTableLists := by
  unfold Obligations.WritesOnlyWhatTheTableLists
  intro i s t hm h
  rw [exec_effect i s hm] at h
  cases h
  exact effect_frame i s

end Sys2Proof

end
/-! # The bounds of R24 -/

section

namespace Sys2Proof

open Machine

/-- No instruction but RET leaves `PC` above 0x10FE, from a `PC` that can be fetched from (R24): the greatest sum of
`Bnnn` is 0xFF + 0xFFF. -/
theorem effect_pc_le (i : Instr) (s : State) (hi : i ≠ .ret) (h : s.pc.toNat ≤ 0xFFE) :
    (i.effect s).pc.toNat ≤ 0x10FE := by
  have hadv : s.advance.pc.toNat ≤ 0x10FE := by rw [State.advance_pc]; bv_omega
  have hskip (c : Bool) : (s.advance.skipIf c).pc.toNat ≤ 0x10FE := by
    rw [State.skipIf_eq, State.setPc_pc]
    split <;> bv_omega
  have himm (nnn : BitVec 12) : (zextAddr nnn).toNat ≤ 0xFFF := by
    simp only [zextAddr, BitVec.toNat_setWidth]
    omega
  cases i with
  | ret => exact absurd rfl hi
  | jp nnn | call nnn => exact (himm nnn).trans (by decide)
  | jpV0 nnn =>
    have hv : (zextByte (s.reg 0)).toNat ≤ 0xFF := by
      simp only [zextByte, BitVec.toNat_setWidth]
      omega
    have := himm nnn
    simp only [Instr.effect, State.setPc_pc, BitVec.toNat_add]
    omega
  | seImm | sneImm | seReg | sneReg | skp | sknp => exact hskip _
  | ldVxK x =>
    simp only [Instr.effect, State.keyWait]
    split
    · omega
    · exact hadv
  | _ => exact hadv

/-- RET keeps the bounds: the popped entry was in use, and the entries below it stay (R102). -/
theorem PcInv.effect_ret {s : State} (h : PcInv s) (hsp : s.sp.val ≠ 0) : PcInv (Instr.ret.effect s) := by
  obtain ⟨-, hstack⟩ := h
  have hlt := s.sp.isLt
  refine ⟨?_, fun k hk => hstack k (Nat.lt_of_lt_of_le hk (Nat.sub_le _ _))⟩
  have htop : s.top.toNat ≤ 0x1000 := hstack ⟨s.sp.val - 1, by omega⟩ (Nat.sub_one_lt hsp)
  exact htop.trans (by decide)

/-- CALL keeps the bounds: it pushes the advanced `PC`, at most 0x1000, on the entries that were in use (R104). -/
theorem PcInv.effect_call {s : State} (nnn : BitVec 12) (h : PcInv s) (hpc : s.pc.toNat ≤ 0xFFE)
    (hsp : s.sp.val ≠ 16) : PcInv ((Instr.call nnn).effect s) := by
  refine ⟨effect_pc_le _ s (by simp) hpc, fun k hk => ?_⟩
  have hlt : s.sp.val < 16 := by have := s.sp.isLt; omega
  have hret : (s.pc + 2).toNat ≤ 0x1000 := by bv_omega
  rw [Instr.effect, State.pushed_eq s.advance _ hlt] at hk ⊢
  simp only [State.setPc_stack, State.setPc_sp, State.advance_stack, State.advance_sp, Vector.getElem_set] at hk ⊢
  split
  · exact hret
  · exact h.2 k (by omega)

/-- An instruction that raises no fault keeps the bounds of R24. -/
theorem PcInv.effect (i : Instr) {s : State} (h : PcInv s) (hpc : s.pc.toNat ≤ 0xFFE) (hm : i.mayRaise s = none) :
    PcInv (i.effect s) := by
  by_cases hret : i = .ret
  · subst hret
    exact h.effect_ret (by simpa [Instr.mayRaise] using hm)
  by_cases hcall : ∃ nnn, i = .call nnn
  · obtain ⟨nnn, rfl⟩ := hcall
    exact h.effect_call nnn hpc (by simpa [Instr.mayRaise] using hm)
  obtain ⟨hsp, hstack⟩ := effect_keeps_stack i s hret fun nnn hi => hcall ⟨nnn, hi⟩
  unfold PcInv
  rw [hsp, hstack]
  exact ⟨effect_pc_le i s hret hpc, h.2⟩

/-- Settles O51. By what a STEP can do: a STEP that keeps everything but the latch keeps the bounds, and so does the
effect of an instruction fetched at or below 0xFFE. -/
theorem stepKeepsPcBound : Obligations.StepKeepsPcBound := by
  unfold Obligations.StepKeepsPcBound
  intro s t hs hstep
  obtain rfl | ⟨c, rfl⟩ | ⟨i, hpc, hm, rfl⟩ := step_effect_cases s t hstep
  · exact hs
  · exact hs
  · exact hs.effect i hpc hm

end Sys2Proof

end

/-! # What a STEP does not read: `ST`, and the stale entries of the stack -/

section

namespace Sys2Proof

open Machine

/-- The state with its stack and its `ST` replaced by functions of what they held: the change that the two statements
make to a state, `g` or `h` being the identity. -/
def withHidden (g : Vector Word 16 → Vector Word 16) (h : Byte → Byte) (s : State) : State :=
  { s with stack := g s.stack, st := h s.st }

section

variable (g : Vector Word 16 → Vector Word 16) (h : Byte → Byte) (s : State)

theorem skipIf_withHidden (b : Bool) : (withHidden g h s).skipIf b = withHidden g h (s.skipIf b) := by
  cases b <;> rfl

theorem keyWait_withHidden (x : Reg) : (withHidden g h s).keyWait x = withHidden g h (s.keyWait x) := by
  unfold State.keyWait
  simp only [show (withHidden g h s).params = s.params from rfl, show (withHidden g h s).choice = s.choice from rfl,
    show (withHidden g h s).pressedKeys = s.pressedKeys from rfl]
  split <;> rfl

/-- No fault's condition depends on `ST` or on an entry of the stack. -/
theorem mayRaise_withHidden (i : Instr) : i.mayRaise (withHidden g h s) = i.mayRaise s := by
  cases i <;> rfl

/-- CALL and RET aside, no instruction reads or writes an entry of the stack; `Fx18` aside, none reads or writes `ST`
(R26, R28). -/
theorem effect_withHidden (i : Instr) (hret : i = .ret → g = id) (hcall : ∀ nnn, i = .call nnn → g = id)
    (hst : ∀ x, i = .ldSTVx x → h = id) : i.effect (withHidden g h s) = withHidden g h (i.effect s) := by
  cases i with
  | ret => cases hret rfl; rfl
  | call nnn => cases hcall nnn rfl; rfl
  | ldSTVx x => cases hst x rfl; rfl
  | seImm | sneImm | seReg | sneReg | skp | sknp => exact skipIf_withHidden g h s.advance _
  | ldVxK x => exact keyWait_withHidden g h s x
  | _ => rfl

end

/-- Two states that fetch the same word and raise the same faults stay related by `R` over a STEP, where `R` holds of
them, of both with a fault latched, and of what each instruction makes of them. -/
theorem step_related {R : State → State → Prop} {s s' t : State} (hfault : s'.fault = s.fault)
    (hfetch : s'.fetch = s.fetch) (hraise : ∀ i : Instr, i.mayRaise s' = i.mayRaise s) (hstay : R s s')
    (hlatch : ∀ c, R { s with fault := some c } { s' with fault := some c })
    (hrun : ∀ i : Instr, i.mayRaise s = none → R (i.effect s) (i.effect s')) (h : step s = .next t) :
    ∃ t', step s' = .next t' ∧ R t t' := by
  unfold step at h ⊢
  rw [hfault, hfetch]
  split at h
  · cases h
    exact ⟨s', rfl, hstay⟩
  · split at h
    · cases h
      exact ⟨_, rfl, hlatch _⟩
    · split at h
      · cases h
        exact ⟨_, rfl, hlatch _⟩
      · rename_i i _
        obtain ⟨c, hm, rfl⟩ | ⟨hm, rfl⟩ := exec_cases i s t h
        · exact ⟨_, exec_raises i s' ((hraise i).trans hm), hlatch c⟩
        · exact ⟨_, exec_effect i s' ((hraise i).trans hm), hrun i hm⟩

/-- The two states differ at most in `ST`. -/
def DifferInSt (t t' : State) : Prop := ∃ b, t' = { t with st := b }

/-- An instruction's effects on two states that differ in `ST` differ at most in `ST`: `Fx18` overwrites it, and no
other instruction touches it. -/
theorem effect_differInSt (i : Instr) (s : State) (b : Byte) :
    DifferInSt (i.effect s) (i.effect { s with st := b }) := by
  by_cases hi : ∃ x, i = .ldSTVx x
  · obtain ⟨x, rfl⟩ := hi
    exact ⟨s.reg x, rfl⟩
  · exact ⟨b, effect_withHidden id (fun _ => b) s i (fun _ => rfl) (fun _ _ => rfl) fun x hx => absurd ⟨x, hx⟩ hi⟩

/-- Settles O46, over the instructions' effects. -/
theorem soundTimerIsNotRead : Obligations.SoundTimerIsNotRead := by
  unfold Obligations.SoundTimerIsNotRead
  intro s t b hstep
  obtain ⟨t', ht', b', rfl⟩ := step_related (R := DifferInSt) (s := s) (s' := { s with st := b }) rfl rfl
    (mayRaise_withHidden id (fun _ => b) s) ⟨b, rfl⟩ (fun _ => ⟨b, rfl⟩) (fun i _ => effect_differInSt i s b) hstep
  exact ⟨b', ht'⟩

/-- The two states differ at most in stack entries at or above `SP`. -/
def DifferInStaleEntries (t t' : State) : Prop :=
  ∃ stack : Vector Word 16, t' = { t with stack := stack } ∧
    ∀ k : Fin 16, k.val < t.sp.val → stack[k.val] = t.stack[k.val]

section

variable {s : State} {stack : Vector Word 16}
  (hstack : ∀ k : Fin 16, k.val < s.sp.val → stack[k.val] = s.stack[k.val])
include hstack

/-- RET reads the entry below `SP`, which is in use (R102). -/
theorem effect_ret_differInStaleEntries (hsp : s.sp.val ≠ 0) :
    DifferInStaleEntries (Instr.ret.effect s) (Instr.ret.effect { s with stack := stack }) := by
  have hlt := s.sp.isLt
  have htop : ({ s with stack := stack } : State).top = s.top :=
    hstack ⟨s.sp.val - 1, by omega⟩ (Nat.sub_one_lt hsp)
  refine ⟨stack, ?_, fun k hk => hstack k (Nat.lt_of_lt_of_le hk (Nat.sub_le _ _))⟩
  simp only [Instr.effect, htop]
  rfl

/-- CALL writes the entry at `SP` in both states alike, which is then in use (R104). -/
theorem effect_call_differInStaleEntries (nnn : BitVec 12) (hsp : s.sp.val ≠ 16) :
    DifferInStaleEntries ((Instr.call nnn).effect s) ((Instr.call nnn).effect { s with stack := stack }) := by
  refine ⟨stack.setIfInBounds s.sp.val (s.pc + 2), rfl, fun k hk => ?_⟩
  have hlt : s.sp.val < 16 := by have := s.sp.isLt; omega
  rw [Instr.effect, State.pushed_eq s.advance _ hlt] at hk ⊢
  simp only [State.setPc_stack, State.setPc_sp, State.advance_stack, State.advance_sp, Vector.getElem_set,
    Vector.getElem_setIfInBounds] at hk ⊢
  split
  · rfl
  · exact hstack k (by omega)

theorem effect_differInStaleEntries (i : Instr) (hm : i.mayRaise s = none) :
    DifferInStaleEntries (i.effect s) (i.effect { s with stack := stack }) := by
  by_cases hret : i = .ret
  · subst hret
    exact effect_ret_differInStaleEntries hstack (by simpa [Instr.mayRaise] using hm)
  by_cases hcall : ∃ nnn, i = .call nnn
  · obtain ⟨nnn, rfl⟩ := hcall
    exact effect_call_differInStaleEntries hstack nnn (by simpa [Instr.mayRaise] using hm)
  have hcall' (nnn : BitVec 12) : i ≠ .call nnn := fun h => hcall ⟨nnn, h⟩
  have heq : i.effect { s with stack := stack } = { i.effect s with stack := stack } :=
    effect_withHidden (fun _ => stack) id s i (absurd · hret) (fun nnn h => absurd h (hcall' nnn)) fun _ _ => rfl
  obtain ⟨hsp, hst⟩ := effect_keeps_stack i s hret hcall'
  refine ⟨stack, heq, ?_⟩
  rw [hsp, hst]
  exact hstack

end

/-- Settles O47, over the instructions' effects. -/
theorem staleStackEntriesAreNotRead : Obligations.StaleStackEntriesAreNotRead := by
  unfold Obligations.StaleStackEntriesAreNotRead
  intro s t stack hstack hstep
  obtain ⟨t', ht', stack', rfl, hstack'⟩ := step_related (R := DifferInStaleEntries) (s := s)
    (s' := { s with stack := stack }) rfl rfl (mayRaise_withHidden (fun _ => stack) id s) ⟨stack, rfl, hstack⟩
    (fun _ => ⟨stack, rfl, hstack⟩) (fun i hm => effect_differInStaleEntries hstack i hm) hstep
  exact ⟨stack', ht', hstack'⟩

end Sys2Proof

end

/-! # The state after reset (R33, R210) -/

section

namespace Sys2Proof

open Machine

/-- With nothing listed, memory reads as `FONT` below 0x050 and as zero above (R33, R51). -/
theorem byteAt_resetWith (p : Params) (rnd : Byte) (choice draws a : Nat) :
    (State.resetWith p rnd choice draws).byteAt a = if h : a < 80 then p.font[a] else 0 := rfl

/-- Settles O53. -/
theorem resetHasTheInvariants : Obligations.ResetHasTheInvariants := by
  unfold Obligations.ResetHasTheInvariants
  exact ⟨rfl, by decide, fun k hk => absurd hk (Nat.not_lt_zero _)⟩

/-- Settles O54. RESET leaves `State.resetWith` of the state's own parameters and draws, whatever the state. -/
theorem resetValues : Obligations.ResetValues := by
  unfold Obligations.ResetValues
  refine ⟨fun s => ⟨State.resetWith s.params s.rnd s.choice s.draws, rfl, fun r => ?_, rfl, rfl, rfl, fun k => ?_, rfl,
    rfl, rfl, fun k => ?_, fun k => ?_, fun a => ?_, fun a ha => ?_, rfl, rfl, rfl⟩, rfl⟩
  · exact Vector.getElem_replicate ..
  · exact Vector.getElem_replicate ..
  · exact BitVec.getLsbD_zero ..
  · exact Vector.getElem_replicate ..
  · exact (byteAt_resetWith ..).trans (dif_pos a.isLt)
  · exact (byteAt_resetWith ..).trans (dif_neg (Nat.not_lt.mpr ha))

end Sys2Proof

end

/-! # Memory: its canonical form, the fetch, and a write read back (spec 20_memory.md) -/

section

namespace Sys2Proof.Machine

/-! ### The canonical form is canonical -/

theorem Memory.wfFrom_cons (p : Params) (lo a : Nat) (v : Byte) (m : Memory) :
    Memory.wfFrom p lo ((a, v) :: m) = true ↔
      lo ≤ a ∧ a < 4096 ∧ v ≠ Memory.unlisted p a ∧ Memory.wfFrom p (a + 1) m = true := by
  simp only [Memory.wfFrom, Bool.and_eq_true, decide_eq_true_eq, and_assoc]

@[simp] theorem Memory.read_cons_self (p : Params) (m : Memory) (a : Nat) (v : Byte) :
    Memory.read p ((a, v) :: m) a = v := by
  simp [Memory.read, Memory.lookup]

theorem Memory.read_cons_other (p : Params) (m : Memory) {a c : Nat} (v : Byte) (h : c ≠ a) :
    Memory.read p ((a, v) :: m) c = Memory.read p m c := by
  simp [Memory.read, Memory.lookup, h]

/-- Where nothing is listed below `lo`, memory reads as its reset contents there. -/
theorem Memory.read_below (p : Params) {lo a : Nat} (m : Memory) (h : a < lo)
    (hw : Memory.wfFrom p lo m = true) : Memory.read p m a = Memory.unlisted p a := by
  rw [Memory.read, Memory.lookup_below p m h hw, Option.getD_none]

/-- The first listed address is the least that reads other than its reset contents: nothing that another memory in the
form lists, and that reads the same here, lies below it. -/
theorem Memory.head_le_of_read_eq (p : Params) {lo lo' a b : Nat} {v w : Byte} {m m' : Memory}
    (hw : Memory.wfFrom p lo ((a, v) :: m) = true) (hw' : Memory.wfFrom p lo' ((b, w) :: m') = true)
    (hr : Memory.read p ((a, v) :: m) b = Memory.read p ((b, w) :: m') b) : a ≤ b := by
  obtain ⟨-, ha, hv, hm⟩ := (Memory.wfFrom_cons ..).mp hw
  obtain ⟨-, -, hne, -⟩ := (Memory.wfFrom_cons ..).mp hw'
  by_contra hlt
  have hfrom : Memory.wfFrom p a ((a, v) :: m) = true := (Memory.wfFrom_cons ..).mpr ⟨le_rfl, ha, hv, hm⟩
  rw [Memory.read_below p _ (not_le.mp hlt) hfrom, Memory.read_cons_self] at hr
  exact hne hr.symm

/-- A memory in the form that reads as its reset contents everywhere lists nothing. -/
theorem Memory.eq_nil_of_read_eq (p : Params) {lo : Nat} {m : Memory} (hw : Memory.wfFrom p lo m = true)
    (hr : ∀ a, Memory.read p m a = Memory.unlisted p a) : m = [] := by
  cases m with
  | nil => rfl
  | cons c m =>
    obtain ⟨a, v⟩ := c
    obtain ⟨-, -, hv, -⟩ := (Memory.wfFrom_cons ..).mp hw
    exact absurd ((Memory.read_cons_self p m a v).symm.trans (hr a)) hv

/-- Two memories in the form that read the same everywhere list the same bytes, first to last. -/
theorem Memory.eq_of_read_eq (p : Params) {lo : Nat} (m m' : Memory) (hw : Memory.wfFrom p lo m = true)
    (hw' : Memory.wfFrom p lo m' = true) (hr : ∀ a, Memory.read p m a = Memory.read p m' a) : m = m' := by
  induction m generalizing lo m' with
  | nil => exact (Memory.eq_nil_of_read_eq p hw' fun a => (hr a).symm).symm
  | cons c m ih =>
    obtain ⟨a, v⟩ := c
    cases m' with
    | nil => exact Memory.eq_nil_of_read_eq p hw hr
    | cons d m' =>
      obtain ⟨b, w⟩ := d
      obtain rfl : a = b :=
        le_antisymm (Memory.head_le_of_read_eq p hw hw' (hr b)) (Memory.head_le_of_read_eq p hw' hw (hr a).symm)
      obtain rfl : v = w := by simpa using hr a
      obtain ⟨-, -, -, hm⟩ := (Memory.wfFrom_cons ..).mp hw
      obtain ⟨-, -, -, hm'⟩ := (Memory.wfFrom_cons ..).mp hw'
      have htail (c : Nat) : Memory.read p m c = Memory.read p m' c := by
        by_cases hc : c = a
        · rw [Memory.read_below p m (by omega) hm, Memory.read_below p m' (by omega) hm']
        · simpa [Memory.read_cons_other p _ v hc] using hr c
      rw [ih m' hm hm' htail]

/-! ### The fetch, and a write -/

theorem State.fetch_ok (s : State) (h : s.pc.toNat ≤ 0xFFE) :
    s.fetch = .ok (wordOfBytes (s.byteAt s.pc.toNat) (s.byteAt (s.pc.toNat + 1))) :=
  if_pos h

theorem State.fetch_error (s : State) (h : 0xFFE < s.pc.toNat) : s.fetch = .error (.fetchOutOfBounds s.pc) :=
  if_neg (Nat.not_le.mpr h)

/-- With no fault latched, a STEP whose fetch fails latches the fetch's fault (R191). -/
theorem step_of_fetch_error (s : State) {c : Cause} (hf : s.fault = none) (h : s.fetch = .error c) :
    step s = .next { s with fault := some c } := by
  simp only [step, hf, h, State.raise]

/-- A data write that succeeds places its byte, at an address of `MEM` (R59). -/
theorem State.memWrite_eq_ok_iff (s t : State) (a : Nat) (b : Byte) :
    s.memWrite a b = .ok t ↔ a ≤ 0xFFF ∧ t = s.withByte a b := by
  unfold State.memWrite
  split
  next h => simp [h, State.withByte, eq_comm]
  next h => simp [h]

end Sys2Proof.Machine

namespace Sys2Proof

open Machine

/-- The word of two bytes is their big-endian number, which 16 bits hold (R58, R60). -/
theorem wordOfBytes_toNat (hi lo : Byte) : (wordOfBytes hi lo).toNat = 256 * hi.toNat + lo.toNat := by
  simp only [wordOfBytes, BitVec.toNat_ofNat]
  have := hi.isLt
  have := lo.isLt
  omega

/-! ### Every instruction keeps the canonical form -/

/-- No instruction writes the parameters (R7, R34). -/
theorem effect_params (i : Instr) (s : State) : (i.effect s).params = s.params :=
  effect_frame i s .params (by cases i <;> simp [Instr.writes, storedAt])

/-- The two stores aside, no instruction changes what memory lists (R34). -/
theorem effect_mem (i : Instr) (s : State) (hb : ∀ x, i ≠ .ldB x) (hv : ∀ x, i ≠ .ldMemVx x) :
    (i.effect s).mem = s.mem := by
  cases i with
  | ldB x => exact absurd rfl (hb x)
  | ldMemVx x => exact absurd rfl (hv x)
  | seImm | sneImm | seReg | sneReg | skp | sknp => exact State.skipIf_mem ..
  | ldVxK x =>
    simp only [Instr.effect, State.keyWait]
    split <;> rfl
  | _ => rfl

/-- A store that ends inside memory keeps the form. -/
theorem MemoryInv.stored {s : State} (h : MemoryInv s) (bs : List Byte) (hi : s.i.toNat + bs.length ≤ 4096) :
    MemoryInv (s.stored bs) :=
  Memory.wf_writeList s.params s.mem s.i.toNat bs hi h

/-- An instruction that raises no fault keeps the form: a store that raises none ends inside memory (R196). -/
theorem MemoryInv.effect (i : Instr) {s : State} (h : MemoryInv s) (hm : i.mayRaise s = none) :
    MemoryInv (i.effect s) := by
  have hadv : MemoryInv s.advance := h
  by_cases hb : ∃ x, i = .ldB x
  · obtain ⟨x, rfl⟩ := hb
    have hi : s.i.toNat + 2 ≤ 0xFFF := by simpa [Instr.mayRaise] using hm
    exact hadv.stored (bcdDigits (s.reg x)) (Nat.succ_le_succ hi)
  by_cases hv : ∃ x, i = .ldMemVx x
  · obtain ⟨x, rfl⟩ := hv
    have hi : s.i.toNat + x.val ≤ 0xFFF := by simpa [Instr.mayRaise] using hm
    exact hadv.stored (s.regsUpTo x) (by rw [State.regsUpTo_length]; exact Nat.succ_le_succ hi)
  unfold MemoryInv
  rw [effect_params, effect_mem i s (fun x hx => hb ⟨x, hx⟩) fun x hx => hv ⟨x, hx⟩]
  exact h

/-- Settles O50. By what a STEP can do: a STEP that keeps everything but the latch keeps the form, and so does the
effect of an instruction that raises no fault. -/
theorem stepKeepsMemoryForm : Obligations.StepKeepsMemoryForm := by
  unfold Obligations.StepKeepsMemoryForm
  intro s t hs hstep
  obtain rfl | ⟨c, rfl⟩ | ⟨i, -, hm, rfl⟩ := step_effect_cases s t hstep
  · exact hs
  · exact hs
  · exact hs.effect i hm

/-- Settles O48, by induction on the first memory, over every lower bound of the listed addresses. -/
theorem equalMemoriesAreEqualData : Obligations.EqualMemoriesAreEqualData := by
  unfold Obligations.EqualMemoriesAreEqualData
  exact fun p m m' hw hw' hr => Memory.eq_of_read_eq p m m' hw hw' hr

/-- Settles O37. -/
theorem fetchIsBigEndianAndBounded : Obligations.FetchIsBigEndianAndBounded := by
  unfold Obligations.FetchIsBigEndianAndBounded
  constructor
  · intro s hpc
    exact ⟨_, s.fetch_ok hpc, wordOfBytes_toNat _ _⟩
  · intro s hf hpc
    exact step_of_fetch_error s hf (s.fetch_error hpc)

/-- Settles O49. The written state is the one with the byte placed, whose reads are known at every address. -/
theorem writeIsSeenByReadAndFetch : Obligations.WriteIsSeenByReadAndFetch := by
  unfold Obligations.WriteIsSeenByReadAndFetch
  intro s t a b h
  obtain ⟨ha, rfl⟩ := (s.memWrite_eq_ok_iff t a b).mp h
  have hself : (s.withByte a b).byteAt a = b := s.byteAt_withByte_self a b
  refine ⟨?_, fun c hc => s.byteAt_withByte_other b hc, ?_, ?_⟩
  · rw [State.memRead_ok _ ha, hself]
  · rintro rfl hpc
    exact ⟨_, State.fetch_ok _ hpc, (highByte_wordOfBytes _ _).trans hself⟩
  · rintro rfl
    exact ⟨_, State.fetch_ok _ (Nat.le_of_succ_le_succ ha), (lowByte_wordOfBytes _ _).trans hself⟩

end Sys2Proof

end

/-! # The decoder and the encoder (spec 30_encoding.md), and the word that a STEP runs

Decoding and encoding are inverse to each other, `decodeWord_eq_some_iff`: a packed word has the fields it was packed
from, and a word is the packing of its own fields. The opcode table and R76's classes are then read off the fields. -/

section

namespace Sys2Proof

theorem fieldD1_lt (op : Word) : fieldD1 op < 16 := by
  have := op.isLt
  unfold fieldD1
  omega

/-! ### The fields of a packed word -/

section

variable {d1 low nn n : Nat} (x y : Reg)

theorem fieldD1_packWord (hd : d1 < 16) (hl : low < 0x1000) : fieldD1 (packWord d1 low) = d1 := by
  rw [fieldD1, packWord_toNat hd hl]
  omega

theorem fieldNNN_packWord (nnn : BitVec 12) (hd : d1 < 16) : fieldNNN (packWord d1 nnn.toNat) = nnn := by
  apply BitVec.eq_of_toNat_eq
  rw [fieldNNN_toNat, packWord_toNat hd nnn.isLt]
  omega

theorem fieldD1_packXNN (hd : d1 < 16) (hn : nn < 256) : fieldD1 (packXNN d1 x nn) = d1 :=
  fieldD1_packWord hd (by omega)

theorem fieldX_packXNN (hd : d1 < 16) (hn : nn < 256) : fieldX (packXNN d1 x nn) = x := by
  apply Fin.ext
  rw [fieldX_val, packXNN_toNat x hd hn]
  omega

theorem fieldNN_packXNN (hd : d1 < 16) (hn : nn < 256) : (fieldNN (packXNN d1 x nn)).toNat = nn := by
  rw [fieldNN_toNat, packXNN_toNat x hd hn]
  omega

theorem fieldD1_packXYN (hd : d1 < 16) (hn : n < 16) : fieldD1 (packXYN d1 x y n) = d1 :=
  fieldD1_packWord hd (by omega)

theorem fieldX_packXYN (hd : d1 < 16) (hn : n < 16) : fieldX (packXYN d1 x y n) = x := by
  apply Fin.ext
  rw [fieldX_val, packXYN_toNat x y hd hn]
  omega

theorem fieldY_packXYN (hd : d1 < 16) (hn : n < 16) : fieldY (packXYN d1 x y n) = y := by
  apply Fin.ext
  rw [fieldY_val, packXYN_toNat x y hd hn]
  omega

theorem fieldN_packXYN (hd : d1 < 16) (hn : n < 16) : (fieldN (packXYN d1 x y n)).val = n := by
  rw [fieldN_val, packXYN_toNat x y hd hn]
  omega

end

/-! ### A word is the packing of its fields -/

section

variable {op : Word} {d1 : Nat} (hd : fieldD1 op = d1)

include hd

theorem packWord_fields : packWord d1 (fieldNNN op).toNat = op := by
  apply BitVec.eq_of_toNat_eq
  rw [packWord_toNat (hd ▸ fieldD1_lt op) (fieldNNN op).isLt, fieldNNN_toNat, ← hd, fieldD1]
  omega

theorem packXNN_fields {nn : Nat} (hn : (fieldNN op).toNat = nn) : packXNN d1 (fieldX op) nn = op := by
  apply BitVec.eq_of_toNat_eq
  rw [packXNN_toNat _ (hd ▸ fieldD1_lt op) (hn ▸ (fieldNN op).isLt), ← hn, fieldNN_toNat, fieldX_val, ← hd, fieldD1]
  omega

theorem packXYN_fields {n : Nat} (hn : (fieldN op).val = n) : packXYN d1 (fieldX op) (fieldY op) n = op := by
  apply BitVec.eq_of_toNat_eq
  rw [packXYN_toNat _ _ (hd ▸ fieldD1_lt op) (hn ▸ (fieldN op).isLt), ← hn, fieldN_val, fieldX_val, fieldY_val, ← hd,
    fieldD1]
  omega

end

/-! ### The decoder undoes the encoder -/

/-- By the form of the row: a fixed word, an address, an immediate, registers with `d4`, or a register with `nn`. -/
theorem decodeWord_encode (i : Instr) : decodeWord (encode i) = some i := by
  cases i with
  | nop | cls | ret => rfl
  | jp nnn | call nnn | ldI nnn | jpV0 nnn =>
    have hlow : nnn.toNat < 0x1000 := nnn.isLt
    simp [encode, decodeWord, fieldD1_packWord, fieldNNN_packWord, hlow]
  | seImm x nn | sneImm x nn | ldImm x nn | addImm x nn | rnd x nn =>
    have hnn : nn.toNat < 256 := nn.isLt
    have hfield (d1 : Nat) (hd : d1 < 16) : fieldNN (packXNN d1 x nn.toNat) = nn :=
      BitVec.eq_of_toNat_eq (fieldNN_packXNN x hd hnn)
    simp [encode, decodeWord, fieldD1_packXNN, fieldX_packXNN, hfield, hnn]
  | seReg x y | sneReg x y =>
    simp [encode, decodeWord, fieldD1_packXYN, fieldN_packXYN, fieldX_packXYN, fieldY_packXYN]
  | ldReg x y | orReg x y | andReg x y | xorReg x y | addReg x y | sub x y | shr x y | subn x y | shl x y =>
    simp [encode, decodeWord, decode8, fieldD1_packXYN, fieldN_packXYN, fieldX_packXYN, fieldY_packXYN]
  | drw x y n =>
    have hfield : fieldN (packXYN 0xD x y n.val) = n := Fin.ext (fieldN_packXYN x y (by decide) n.isLt)
    simp [encode, decodeWord, fieldD1_packXYN, fieldX_packXYN, fieldY_packXYN, hfield]
  | skp x | sknp x => simp [encode, decodeWord, decodeE, fieldD1_packXNN, fieldNN_packXNN, fieldX_packXNN]
  | ldVxDT x | ldVxK x | ldDTVx x | ldSTVx x | addI x | ldF x | ldB x | ldMemVx x | ldVxMem x =>
    simp [encode, decodeWord, decodeF, fieldD1_packXNN, fieldNN_packXNN, fieldX_packXNN]

/-- The two bytes of a word, high byte first, decode as the word (R60). -/
theorem decodeBytes_of_decodeWord {op : Word} {i : Instr} (h : decodeWord op = some i) (rest : List Byte) :
    decodeBytes (highByte op :: lowByte op :: rest) = .ok (i, rest) := by
  simp only [decodeBytes, wordOfBytes_split, h]

/-! ### The encoder undoes the decoder -/

section

variable {op : Word} {i : Instr}

theorem encode_of_decode0 (h : decode0 op = some i) : encode i = op := by
  unfold decode0 at h
  split at h
  case h_4 => cases h
  all_goals
    next hw =>
    cases h
    exact BitVec.eq_of_toNat_eq hw.symm

theorem encode_of_decode8 (hd : fieldD1 op = 0x8) (h : decode8 op = some i) : encode i = op := by
  unfold decode8 at h
  split at h
  case h_10 => cases h
  all_goals
    next hn =>
    cases h
    exact packXYN_fields hd hn

theorem encode_of_decodeE (hd : fieldD1 op = 0xE) (h : decodeE op = some i) : encode i = op := by
  unfold decodeE at h
  split at h
  case h_3 => cases h
  all_goals
    next hn =>
    cases h
    exact packXNN_fields hd hn

theorem encode_of_decodeF (hd : fieldD1 op = 0xF) (h : decodeF op = some i) : encode i = op := by
  unfold decodeF at h
  split at h
  case h_10 => cases h
  all_goals
    next hn =>
    cases h
    exact packXNN_fields hd hn

theorem encode_of_decodeWord (h : decodeWord op = some i) : encode i = op := by
  unfold decodeWord at h
  split at h
  case h_1 => exact encode_of_decode0 h
  case h_6 hd | h_10 hd =>
    split at h
    next hn => cases h; exact packXYN_fields hd hn
    next => cases h
  case h_9 hd => exact encode_of_decode8 hd h
  case h_14 hd => cases h; exact packXYN_fields hd rfl
  case h_15 hd => exact encode_of_decodeE hd h
  case h_16 =>
    have hd : fieldD1 op = 0xF := by
      have := fieldD1_lt op
      simp only [imp_false] at *
      omega
    exact encode_of_decodeF hd h
  case h_2 hd | h_3 hd | h_11 hd | h_12 hd => cases h; exact packWord_fields hd
  case h_4 hd | h_5 hd | h_7 hd | h_8 hd | h_13 hd => cases h; exact packXNN_fields hd rfl

end

/-- Decoding and encoding are inverse to each other (R74, R75). -/
theorem decodeWord_eq_some_iff (op : Word) (i : Instr) : decodeWord op = some i ↔ encode i = op :=
  ⟨encode_of_decodeWord, fun h => h ▸ decodeWord_encode i⟩

/-! ### The unimplemented words (R76) -/

section

variable (op : Word)

theorem decode0_eq_none_iff : decode0 op = none ↔ op.toNat ≠ 0x0000 ∧ op.toNat ≠ 0x00E0 ∧ op.toNat ≠ 0x00EE := by
  unfold decode0
  split <;> simp_all

theorem decode8_eq_none_iff :
    decode8 op = none ↔ (fieldN op).val ∈ [0x8, 0x9, 0xA, 0xB, 0xC, 0xD, 0xF] := by
  have hlt := (fieldN op).isLt
  unfold decode8
  split
  case h_10 =>
    simp only [imp_false] at *
    simp only [List.mem_cons, List.not_mem_nil, or_false, true_iff]
    omega
  all_goals simp [*]

theorem decodeE_eq_none_iff : decodeE op = none ↔ (fieldNN op).toNat ∉ [0x9E, 0xA1] := by
  unfold decodeE
  split <;> simp_all

theorem decodeF_eq_none_iff :
    decodeF op = none ↔ (fieldNN op).toNat ∉ [0x07, 0x0A, 0x15, 0x18, 0x1E, 0x29, 0x33, 0x55, 0x65] := by
  unfold decodeF
  split <;> simp_all

/-- A word is unimplemented in the six classes of R76, told apart by `d1`. -/
theorem decodeWord_eq_none_iff :
    decodeWord op = none ↔
      (fieldD1 op = 0x0 ∧ decode0 op = none) ∨ (fieldD1 op = 0x5 ∧ (fieldN op).val ≠ 0) ∨
      (fieldD1 op = 0x8 ∧ decode8 op = none) ∨ (fieldD1 op = 0x9 ∧ (fieldN op).val ≠ 0) ∨
      (fieldD1 op = 0xE ∧ decodeE op = none) ∨ (fieldD1 op = 0xF ∧ decodeF op = none) := by
  have hlt := fieldD1_lt op
  unfold decodeWord
  split
  case h_16 =>
    have hd : fieldD1 op = 0xF := by
      simp only [imp_false] at *
      omega
    simp [hd]
  all_goals simp [*]

end

/-! ### The opcode table (R74) -/

section

variable {op v : Word}

theorem Row.toNat_of_matches {r : Row} (h : r.matches op = true) : (op &&& r.mask).toNat = r.value.toNat := by
  rw [Row.matches, beq_iff_eq] at h
  rw [h]

theorem eq_of_matches_FFFF (h : Row.matches ⟨0xFFFF, v⟩ op = true) : op = v :=
  (BitVec.and_allOnes (x := op)).symm.trans (beq_iff_eq.mp h)

theorem fieldD1_of_matches_F000 (h : Row.matches ⟨0xF000, v⟩ op = true) : fieldD1 op = v.toNat / 0x1000 := by
  have heq : 0x1000 * fieldD1 op = v.toNat := (and_F000_toNat op).symm.trans (Row.toNat_of_matches h)
  omega

theorem fields_of_matches_F00F (h : Row.matches ⟨0xF00F, v⟩ op = true) :
    fieldD1 op = v.toNat / 0x1000 ∧ (fieldN op).val = v.toNat % 0x1000 := by
  have heq : 0x1000 * fieldD1 op + (fieldN op).val = v.toNat :=
    (and_F00F_toNat op).symm.trans (Row.toNat_of_matches h)
  have hn := (fieldN op).isLt
  omega

theorem fields_of_matches_F0FF (h : Row.matches ⟨0xF0FF, v⟩ op = true) :
    fieldD1 op = v.toNat / 0x1000 ∧ (fieldNN op).toNat = v.toNat % 0x1000 := by
  have heq : 0x1000 * fieldD1 op + (fieldNN op).toNat = v.toNat :=
    (and_F0FF_toNat op).symm.trans (Row.toNat_of_matches h)
  have hn := (fieldNN op).isLt
  omega

/-- A word in an instruction's row decodes: by the row's mask, which fixes the fields that the decoder looks at. -/
theorem decodeWord_isSome_of_matches (i : Instr) (h : i.row.matches op = true) : (decodeWord op).isSome := by
  cases i with
  | nop | cls | ret =>
    rw [eq_of_matches_FFFF h]
    rfl
  | jp | call | seImm | sneImm | ldImm | addImm | ldI | jpV0 | rnd | drw =>
    simp [decodeWord, fieldD1_of_matches_F000 h]
  | seReg | sneReg =>
    obtain ⟨hd, hn⟩ := fields_of_matches_F00F h
    simp [decodeWord, hd, hn]
  | ldReg | orReg | andReg | xorReg | addReg | sub | shr | subn | shl =>
    obtain ⟨hd, hn⟩ := fields_of_matches_F00F h
    simp [decodeWord, decode8, hd, hn]
  | skp | sknp =>
    obtain ⟨hd, hnn⟩ := fields_of_matches_F0FF h
    simp [decodeWord, decodeE, hd, hnn]
  | ldVxDT | ldVxK | ldDTVx | ldSTVx | addI | ldF | ldB | ldMemVx | ldVxMem =>
    obtain ⟨hd, hnn⟩ := fields_of_matches_F0FF h
    simp [decodeWord, decodeF, hd, hnn]

end

/-- One instruction for each row of the table, in the table's order. -/
def rowExamples : List Instr :=
  [.nop, .cls, .ret, .jp 0, .call 0, .seImm 0 0, .sneImm 0 0, .seReg 0 0, .ldImm 0 0, .addImm 0 0,
   .ldReg 0 0, .orReg 0 0, .andReg 0 0, .xorReg 0 0, .addReg 0 0, .sub 0 0, .shr 0 0, .subn 0 0, .shl 0 0,
   .sneReg 0 0, .ldI 0, .jpV0 0, .rnd 0 0, .drw 0 0 0, .skp 0, .sknp 0, .ldVxDT 0, .ldVxK 0, .ldDTVx 0,
   .ldSTVx 0, .addI 0, .ldF 0, .ldB 0, .ldMemVx 0, .ldVxMem 0]

theorem map_row_rowExamples : rowExamples.map Instr.row = opcodeTable := rfl

theorem mem_opcodeTable_iff (r : Row) : r ∈ opcodeTable ↔ ∃ i : Instr, i.row = r := by
  constructor
  · intro hr
    rw [← map_row_rowExamples] at hr
    obtain ⟨i, -, hi⟩ := List.mem_map.mp hr
    exact ⟨i, hi⟩
  · rintro ⟨i, rfl⟩
    exact Laws.EncodedRow.row_mem i

theorem instructionWord_iff (op : Word) : instructionWord op = true ↔ ∃ i : Instr, i.row.matches op = true := by
  simp only [instructionWord, List.any_eq_true, mem_opcodeTable_iff]
  constructor
  · rintro ⟨_, ⟨i, rfl⟩, h⟩
    exact ⟨i, h⟩
  · rintro ⟨i, h⟩
    exact ⟨_, ⟨i, rfl⟩, h⟩

theorem row_matches_of_decodeWord {op : Word} {i : Instr} (h : decodeWord op = some i) :
    i.row.matches op = true := by
  rw [← encode_of_decodeWord h]
  exact (Laws.EncodedRow.all i).2

/-- Two rows of the table that agree where both masks fix a bit are one row (R75). -/
theorem opcodeTable_disjoint :
    ∀ r ∈ opcodeTable, ∀ q ∈ opcodeTable, r.value &&& q.mask = q.value &&& r.mask → r = q := by
  decide

/-- No word matches two rows (R75). -/
theorem row_unique {r q : Row} (hr : r ∈ opcodeTable) (hq : q ∈ opcodeTable) {op : Word}
    (hrm : r.matches op = true) (hqm : q.matches op = true) : r = q := by
  apply opcodeTable_disjoint r hr q hq
  rw [Row.matches, beq_iff_eq] at hrm hqm
  rw [← hrm, ← hqm, BitVec.and_assoc, BitVec.and_assoc, BitVec.and_comm r.mask]

end Sys2Proof

/-! ### The word that a STEP runs -/

namespace Sys2Proof.Machine

/-- With no fault latched, a STEP whose fetched word decodes runs that instruction (R79). -/
theorem step_of_fetch_ok (s : State) {op : Word} {i : Instr} (hf : s.fault = none) (hop : s.fetch = .ok op)
    (hi : decodeWord op = some i) : step s = exec i s := by
  simp only [step, hf, hop, hi]

/-- The host's STEP leaves what `step` leaves with the drawn inputs in place (R170, R172). -/
theorem State.stepOp_of_step (s : State) {t : State} {rnd : Byte} {choice : Nat} (hf : s.fault = none)
    (h : step { s with rnd := rnd, choice := choice } = .next t) : s.stepOp rnd choice = t := by
  rw [State.stepOp, if_neg (by simp [hf]), h]

@[simp] theorem State.withByte_pc (s : State) (a : Nat) (b : Byte) : (s.withByte a b).pc = s.pc := rfl

/-- A word placed at `PC`, high byte first, is the next word fetched (R58, R60). -/
theorem State.fetch_withBytes (s : State) (op : Word) (h : s.pc.toNat ≤ 0xFFE) :
    ((s.withByte s.pc.toNat (highByte op)).withByte (s.pc.toNat + 1) (lowByte op)).fetch = .ok op := by
  rw [State.fetch_ok]
  · simp [wordOfBytes_split]
  · exact h

/-- `withFetchWord` leaves a `PC` at which a fetch succeeds, and its word there. -/
theorem State.fetch_withFetchWord (s : State) (nbits w : Nat) :
    (s.withFetchWord nbits w).fetch = .ok (BitVec.ofNat 16 (w % 2 ^ nbits)) := by
  have hpc : (if s.pc.toNat ≤ 0xFFE then s.pc else 0x200).toNat ≤ 0xFFE := by
    split
    next h => exact h
    next => decide
  exact State.fetch_withBytes { s with fault := none, pc := if s.pc.toNat ≤ 0xFFE then s.pc else 0x200 } _ hpc

end Sys2Proof.Machine

namespace Sys2Proof

open Machine

theorem decodeTableWord_eq_some_iff (nbits w : Nat) (i : Instr) :
    decodeTableWord nbits w = some i ↔ decodeWord (BitVec.ofNat 16 (w % 2 ^ nbits)) = some i := by
  simp only [decodeTableWord, decodeBytes, wordOfBytes_split]
  cases decodeWord (BitVec.ofNat 16 (w % 2 ^ nbits)) <;> simp

/-- Settles O32, by the form of the instruction's row; the two bytes of a word decode as the word. -/
theorem decodeOfEncode : Obligations.DecodeOfEncode := by
  unfold Obligations.DecodeOfEncode
  exact fun i => ⟨decodeWord_encode i, decodeBytes_of_decodeWord (decodeWord_encode i)⟩

/-- Settles O33. A decoded word is the packing of its own fields. -/
theorem encodeOfDecode : Obligations.EncodeOfDecode := by
  unfold Obligations.EncodeOfDecode
  exact fun op i => (decodeWord_eq_some_iff op i).mp

/-- Settles O34. A decoded word matches its instruction's row, and no word matches two. -/
theorem decodeFollowsTable : Obligations.DecodeFollowsTable := by
  unfold Obligations.DecodeFollowsTable
  intro op
  constructor
  · rw [instructionWord_iff]
    constructor
    · intro h
      obtain ⟨i, hi⟩ := Option.isSome_iff_exists.mp h
      exact ⟨i, row_matches_of_decodeWord hi⟩
    · rintro ⟨i, hi⟩
      exact decodeWord_isSome_of_matches i hi
  · intro i hi
    have hrow := Laws.EncodedRow.row_mem i
    have hmatch := row_matches_of_decodeWord hi
    exact ⟨hrow, hmatch, fun r hr hrm => row_unique hr hrow hrm hmatch⟩

/-- Settles O35, by the value of `d1`: outside the six classes every arm of the decoder answers an instruction. -/
theorem unimplementedWords : Obligations.UnimplementedWords := by
  unfold Obligations.UnimplementedWords
  intro op
  rw [decodeWord_eq_none_iff, decode0_eq_none_iff, decode8_eq_none_iff, decodeE_eq_none_iff, decodeF_eq_none_iff,
    fieldN_val, fieldNN_toNat, fieldD1]

/-- Settles O36. The first eight words are encodings, and the last is of R76's class `Fxnn`. -/
theorem wordsDecodeAsWritten : Obligations.WordsDecodeAsWritten := by
  unfold Obligations.WordsDecodeAsWritten
  exact ⟨decodeWord_encode .ret, decodeWord_encode (.jp 0x234), decodeWord_encode (.seImm 0x3 0x2A),
    decodeWord_encode (.subn 0xA 0xB), decodeWord_encode (.shr 0xA 0xF), decodeWord_encode (.drw 0x7 0xA 0x5),
    decodeWord_encode (.sknp 0xA), decodeWord_encode (.ldMemVx 0xA), by decide⟩

/-- Settles O38. Below 0xFFF the fetch answers the two bytes at `PC`, high byte first. -/
theorem stepRunsDecodedInstruction : Obligations.StepRunsDecodedInstruction := by
  unfold Obligations.StepRunsDecodedInstruction
  constructor
  · intro s i hf hpc hi
    exact step_of_fetch_ok s hf (s.fetch_ok hpc) hi
  · intro s t rnd choice hf hstep
    exact congrArg (·, Reply.none) (s.stepOp_of_step hf hstep)

/-- Settles O40. The word that `withFetchWord` places is the word fetched, with the latch clear. -/
theorem placedWordRunsNext : Obligations.PlacedWordRunsNext := by
  unfold Obligations.PlacedWordRunsNext
  intro s w i hi
  exact step_of_fetch_ok _ rfl (s.fetch_withFetchWord 16 w) ((decodeTableWord_eq_some_iff 16 w i).mp hi)

end Sys2Proof

end

/-! # Control transfer (spec 40_control.md)

The word of a row decodes to the row's instruction, and what an instruction does is its `effect` with the frame
`effect_frame`. What is left of each rule is the `PC` that it names, and for CALL and RET the stack at depth `SP`. -/

section

namespace Sys2Proof.Machine

/-! ### Zero-extended operands (R73, R109) -/

@[simp] theorem zextAddr_toNat (nnn : BitVec 12) : (zextAddr nnn).toNat = nnn.toNat :=
  BitVec.toNat_setWidth_of_le (by decide)

@[simp] theorem zextByte_toNat (b : Byte) : (zextByte b).toNat = b.toNat :=
  BitVec.toNat_setWidth_of_le (by decide)

/-- The greatest sum of `Bnnn`, 0xFF + 0xFFF, fits in 16 bits (R109). -/
theorem zextByte_add_zextAddr_toNat (b : Byte) (nnn : BitVec 12) :
    (zextByte b + zextAddr nnn).toNat = b.toNat + nnn.toNat := by
  have hb := b.isLt
  have hn := nnn.isLt
  rw [BitVec.toNat_add, zextByte_toNat, zextAddr_toNat]
  omega

/-! ### The `PC` of a skip (R100) -/

section

variable (s : State) (a b : Byte)

theorem State.advance_skipIf_beq_pc :
    (s.advance.skipIf (a == b)).pc = if a = b then s.pc + 4 else s.pc + 2 := by
  simp only [State.skipIf_eq, State.setPc_pc, beq_iff_eq]

theorem State.advance_skipIf_bne_pc :
    (s.advance.skipIf (a != b)).pc = if a = b then s.pc + 2 else s.pc + 4 := by
  simp only [State.skipIf_eq, State.setPc_pc, bne_iff_ne, ite_not]

end

/-! ### The stack at depth `SP` (R26) -/

section

variable (s : State) {k : Fin 16}

theorem State.pushed_stack_at (w : Word) (h : k.val = s.sp.val) : (s.pushed w).stack[k.val] = w := by
  simp [State.pushed, h]

theorem State.pushed_sp_val (w : Word) (h : k.val = s.sp.val) : (s.pushed w).sp.val = k.val + 1 := by
  rw [h]
  exact Nat.mod_eq_of_lt (by omega)

theorem State.top_eq_stack (h : k.val + 1 = s.sp.val) : s.top = s.stack[k.val] := by
  simp [State.top, ← h]

theorem State.popped_sp_val (h : k.val + 1 = s.sp.val) : s.popped.sp.val = k.val := by
  simp [State.popped, ← h]

end

end Sys2Proof.Machine

namespace Sys2Proof

open Machine

/-! ### Words given as numbers -/

/-- A number that packs the fields of `i`'s row is a word of `i` (R74). -/
theorem decodeWord_ofNat {i : Instr} {d1 low w : Nat} (hi : encode i = packWord d1 low) (hw : w = 0x1000 * d1 + low) :
    decodeWord (BitVec.ofNat 16 w) = some i := by
  subst hw
  exact (decodeWord_eq_some_iff _ i).mpr hi

/-- In the two rows of the register skips, `d4` must be 0 (R76). -/
theorem decodeWord_skipReg {i : Instr} {d1 : Nat} {x y : Reg} (hd : d1 = 0x5 ∨ d1 = 0x9)
    (hi : encode i = packXYN d1 x y 0) (n : Fin 16) :
    decodeWord (BitVec.ofNat 16 (0x1000 * d1 + 0x100 * x.val + 0x10 * y.val + n.val)) =
      if n = 0 then some i else none := by
  have hw : BitVec.ofNat 16 (0x1000 * d1 + 0x100 * x.val + 0x10 * y.val + n.val) = packXYN d1 x y n.val := by
    simp only [packXYN, packWord, Nat.add_assoc]
  have hd1 : fieldD1 (packXYN d1 x y n.val) = d1 := fieldD1_packXYN x y (by omega) n.isLt
  have hn : (fieldN (packXYN d1 x y n.val)).val = n.val := fieldN_packXYN x y (by omega) n.isLt
  rw [hw]
  split
  next h =>
    subst h
    exact (decodeWord_eq_some_iff _ i).mpr hi
  next h =>
    have hne : (fieldN (packXYN d1 x y n.val)).val ≠ 0 := fun h0 => h (Fin.ext (hn.symm.trans h0))
    rw [decodeWord_eq_none_iff, hd1]
    rcases hd with rfl | rfl
    · exact .inr (.inl ⟨rfl, hne⟩)
    · exact .inr (.inr (.inr (.inl ⟨rfl, hne⟩)))

/-! ### The statements -/

/-- Settles O1. A word that decodes to NOP is NOP's encoding; 0001 to 00DF miss the three exact words with `d1 = 0`. -/
theorem nopOnlyAdvances : Obligations.NopOnlyAdvances := by
  unfold Obligations.NopOnlyAdvances
  refine ⟨decodeWord_encode .nop, fun op h => (encode_of_decodeWord h).symm, fun op hlo hhi => ?_, fun s => ?_⟩
  · have hd : fieldD1 op = 0x0 := by
      rw [fieldD1]
      omega
    have h0 : decode0 op = none := (decode0_eq_none_iff op).mpr (by omega)
    exact (decodeWord_eq_none_iff op).mpr (.inl ⟨hd, h0⟩)
  · exact ⟨_, exec_effect .nop s rfl, rfl, sameBut_setPc s _⟩

/-- Settles O2, by the depth: RET has its effect above depth 0, and raises its fault at depth 0. -/
theorem retPopsTopEntry : Obligations.RetPopsTopEntry := by
  unfold Obligations.RetPopsTopEntry
  refine ⟨decodeWord_encode .ret, fun s k hk => ?_, fun s hs => ?_⟩
  · have hsp : Instr.ret.mayRaise s = none := if_neg (by omega)
    exact ⟨_, exec_effect .ret s hsp, s.top_eq_stack hk, s.advance.popped_sp_val hk, effect_frame .ret s⟩
  · exact exec_raises .ret s (if_pos hs)

/-- Settles O3. A jump to itself undoes the fetch's advance. -/
theorem jpSetsPc : Obligations.JpSetsPc := by
  unfold Obligations.JpSetsPc
  refine fun nnn => ⟨decodeWord_ofNat rfl rfl, fun s => ?_, fun s hpc => ?_⟩
  · exact ⟨_, exec_effect (.jp nnn) s rfl, zextAddr_toNat nnn, sameBut_setPc s _⟩
  · have hself : zextAddr nnn = s.pc := BitVec.eq_of_toNat_eq ((zextAddr_toNat nnn).trans hpc.symm)
    rw [exec_effect (.jp nnn) s rfl, Instr.effect, hself]
    rfl

/-- Settles O4, by the depth: CALL has its effect below depth 16, and raises its fault at depth 16. The one stack entry
in its frame is the entry at `SP`. -/
theorem callPushesAndJumps : Obligations.CallPushesAndJumps := by
  unfold Obligations.CallPushesAndJumps
  refine fun nnn => ⟨decodeWord_ofNat rfl rfl, fun s k hk => ?_, fun s hs => ?_⟩
  · have hsp : (Instr.call nnn).mayRaise s = none := if_neg (by omega)
    refine ⟨_, exec_effect (.call nnn) s hsp, s.advance.pushed_stack_at (s.pc + 2) hk,
      s.advance.pushed_sp_val (s.pc + 2) hk, zextAddr_toNat nnn, (effect_frame (.call nnn) s).mono ?_⟩
    rintro c (hc | hc | ⟨j, hj, hc⟩)
    · exact .inl hc
    · exact .inr (.inl hc)
    · exact .inr (.inr (Fin.ext (hj.trans hk.symm) ▸ hc))
  · exact exec_raises (.call nnn) s (if_pos hs)

/-- Settles O5. Both are skips on the comparison of `V[x]` with `nn`. -/
theorem skipsOnImmediate : Obligations.SkipsOnImmediate := by
  unfold Obligations.SkipsOnImmediate
  refine fun x nn => ⟨decodeWord_ofNat rfl (Nat.add_assoc ..), decodeWord_ofNat rfl (Nat.add_assoc ..),
    fun s => ⟨?_, ?_⟩⟩
  · exact ⟨_, exec_effect (.seImm x nn) s rfl, s.advance_skipIf_beq_pc _ _, sameBut_skipIf s _⟩
  · exact ⟨_, exec_effect (.sneImm x nn) s rfl, s.advance_skipIf_bne_pc _ _, sameBut_skipIf s _⟩

/-- Settles O6. Both are skips on the comparison of `V[x]` with `V[y]`. -/
theorem skipsOnRegister : Obligations.SkipsOnRegister := by
  unfold Obligations.SkipsOnRegister
  refine fun x y => ⟨decodeWord_skipReg (.inl rfl) rfl, decodeWord_skipReg (.inr rfl) rfl, fun s => ⟨?_, ?_⟩⟩
  · exact ⟨_, exec_effect (.seReg x y) s rfl, s.advance_skipIf_beq_pc _ _, sameBut_skipIf s _⟩
  · exact ⟨_, exec_effect (.sneReg x y) s rfl, s.advance_skipIf_bne_pc _ _, sameBut_skipIf s _⟩

/-- Settles O7. The sum as natural numbers is below 65536, so the 16-bit addition does not reduce it. -/
theorem jpV0AddsV0 : Obligations.JpV0AddsV0 := by
  unfold Obligations.JpV0AddsV0
  refine fun nnn => ⟨decodeWord_ofNat rfl rfl, fun s => ?_⟩
  exact ⟨_, exec_effect (.jpV0 nnn) s rfl, zextByte_add_zextAddr_toNat _ nnn, sameBut_setPc s _⟩

end Sys2Proof

end

/-! # Loads, the ALU and the random byte (spec 41_alu.md)

Each rule is read off the instruction's `effect`: one write to `V[x]`, a result and then a flag (`8xy4`, `8xy5`, `8xy7`),
or a flag and then a shift of what `V[x]` holds by then (`8xy6`, `8xyE`). The order decides what `x = F` leaves (R120). -/

section

namespace Sys2Proof.Machine

/-! ### The flags as numbers (R21) -/

section

variable (a b : Byte)

theorem carryFlag_eq : carryFlag a b = if a.toNat + b.toNat > 255 then 1 else 0 := by
  simp only [carryFlag, flagByte, decide_eq_true_eq]

theorem noBorrowFlag_eq : noBorrowFlag a b = if a.toNat < b.toNat then 0 else 1 := by
  simp only [noBorrowFlag, flagByte, Bool.not_eq_true', decide_eq_false_iff_not, ite_not]

theorem lowBitFlag_toNat : (lowBitFlag a).toNat = a.toNat % 2 :=
  Nat.and_one_is_mod a.toNat

theorem highBitFlag_toNat : (highBitFlag a).toNat = a.toNat / 128 := by
  have ha := a.isLt
  have hmod : (highBitFlag a).toNat = (a.toNat >>> 7) % 2 := lowBitFlag_toNat (a >>> 7)
  rw [hmod, Nat.shiftRight_eq_div_pow]
  omega

/-! ### The results as numbers -/

theorem toNat_shiftRight_one : (a >>> 1).toNat = a.toNat / 2 := by
  rw [BitVec.toNat_ushiftRight, Nat.shiftRight_eq_div_pow]

theorem toNat_shiftLeft_one : (a <<< 1).toNat = 2 * a.toNat % 256 := by
  rw [BitVec.toNat_shiftLeft, Nat.shiftLeft_eq, Nat.mul_comm]

theorem natCast_toNat_sub : ((a - b).toNat : Int) = (a.toNat - b.toNat : Int) % 256 := by
  have hb := b.isLt
  rw [BitVec.toNat_sub]
  omega

/-- The flag of SHR is the one bit that a second shift drops: what `x = F` leaves (D9). -/
theorem lowBitFlag_shiftRight_one : lowBitFlag a >>> 1 = 0 := by
  apply BitVec.eq_of_toNat_eq
  rw [toNat_shiftRight_one, lowBitFlag_toNat]
  exact Nat.div_eq_of_lt (Nat.mod_lt _ two_pos)

/-- The flag of SHL keeps its bit in a second shift: what `x = F` leaves (D9). -/
theorem highBitFlag_shiftLeft_one_toNat : (highBitFlag a <<< 1).toNat = 2 * (a.toNat / 128) := by
  have ha := a.isLt
  rw [toNat_shiftLeft_one, highBitFlag_toNat]
  omega

end

/-! ### Two writes to the registers (R120) -/

section

variable (s : State) {x : Reg} (flag : Byte)

theorem State.reg_setReg_setReg_of_ne (b : Byte) {z : Reg} (h : x ≠ z) :
    ((s.setReg x b).setReg z flag).reg x = b := by
  rw [State.reg_setReg_of_ne _ _ h, State.reg_setReg_self]

/-- The writes of `8xy6` and `8xyE`: the flag, then `shift` of what `V[x]` holds by then (R129, R131). -/
def State.flagThenShift (s : State) (x : Reg) (flag : Byte) (shift : Byte → Byte) : State :=
  (s.setReg VF flag).setReg x (shift ((s.setReg VF flag).reg x))

variable (shift : Byte → Byte)

theorem State.flagThenShift_flag (h : x ≠ VF) : (s.flagThenShift x flag shift).reg VF = flag :=
  State.reg_setReg_setReg_of_ne s _ flag h.symm

theorem State.flagThenShift_result (h : x ≠ VF) : (s.flagThenShift x flag shift).reg x = shift (s.reg x) := by
  rw [State.flagThenShift, State.reg_setReg_self, State.reg_setReg_of_ne _ _ h]

/-- With `x = F` the flag itself is shifted (D9). -/
theorem State.flagThenShift_VF : (s.flagThenShift VF flag shift).reg VF = shift flag := by
  rw [State.flagThenShift, State.reg_setReg_self, State.reg_setReg_self]

end

end Sys2Proof.Machine

namespace Sys2Proof

open Machine

theorem effect_shr (x y : Reg) (s : State) :
    (Instr.shr x y).effect s = s.advance.flagThenShift x (lowBitFlag (s.reg x)) (· >>> 1) := rfl

theorem effect_shl (x y : Reg) (s : State) :
    (Instr.shl x y).effect s = s.advance.flagThenShift x (highBitFlag (s.reg x)) (· <<< 1) := rfl

theorem sameBut_withRnd (s : State) (rnd : Byte) : SameBut s { s with rnd := rnd } (· = .draw) := by
  intro c hc
  cases c with
  | draw => exact absurd rfl hc
  | _ => rfl

/-! ### One write to `V[x]` -/

/-- Settles O8. -/
theorem ldImmLoads : Obligations.LdImmLoads := by
  unfold Obligations.LdImmLoads
  refine fun x nn => ⟨decodeWord_ofNat rfl (Nat.add_assoc ..), fun s => ?_⟩
  exact ⟨_, exec_effect (.ldImm x nn) s rfl, rfl, s.advance.reg_setReg_self x nn, effect_frame (.ldImm x nn) s⟩

/-- Settles O9. -/
theorem addImmWraps : Obligations.AddImmWraps := by
  unfold Obligations.AddImmWraps
  refine fun x nn => ⟨decodeWord_ofNat rfl (Nat.add_assoc ..), fun s => ?_⟩
  refine ⟨_, exec_effect (.addImm x nn) s rfl, rfl, ?_, effect_frame (.addImm x nn) s⟩
  rw [Instr.effect, State.reg_setReg_self, BitVec.toNat_add]

/-- Settles O10. -/
theorem ldRegCopies : Obligations.LdRegCopies := by
  unfold Obligations.LdRegCopies
  refine fun x y => ⟨decodeWord_ofNat rfl (by omega), fun s => ?_⟩
  exact ⟨_, exec_effect (.ldReg x y) s rfl, rfl, s.advance.reg_setReg_self x _, effect_frame (.ldReg x y) s⟩

/-- Settles O11. Each row is the bitwise operation on the two bytes. -/
theorem logicRows : Obligations.LogicRows := by
  unfold Obligations.LogicRows
  refine fun x y => ⟨decodeWord_ofNat rfl (by omega), decodeWord_ofNat rfl (by omega),
    decodeWord_ofNat rfl (by omega), fun s => ⟨?_, ?_, ?_⟩⟩
  · refine ⟨_, exec_effect (.orReg x y) s rfl, rfl, fun k => ?_, effect_frame (.orReg x y) s⟩
    rw [Instr.effect, State.reg_setReg_self, BitVec.getLsbD_or]
  · refine ⟨_, exec_effect (.andReg x y) s rfl, rfl, fun k => ?_, effect_frame (.andReg x y) s⟩
    rw [Instr.effect, State.reg_setReg_self, BitVec.getLsbD_and]
  · refine ⟨_, exec_effect (.xorReg x y) s rfl, rfl, fun k => ?_, effect_frame (.xorReg x y) s⟩
    rw [Instr.effect, State.reg_setReg_self, BitVec.getLsbD_xor]

/-- Settles O17. The byte put in place of the draw, and the draw used up, are the frame's `draw`. -/
theorem rndMasksTheDraw : Obligations.RndMasksTheDraw := by
  unfold Obligations.RndMasksTheDraw
  refine fun x nn => ⟨decodeWord_ofNat rfl (Nat.add_assoc ..), fun s rnd => ?_⟩
  have hframe := (sameBut_withRnd s rnd).trans (effect_frame (.rnd x nn) { s with rnd := rnd })
  refine ⟨_, exec_effect (.rnd x nn) { s with rnd := rnd } rfl, rfl, fun k => ?_,
    hframe.mono fun c hc => hc.elim (.inr ∘ .inr) id⟩
  rw [Instr.effect, State.redraw_reg, State.reg_setReg_self, maskedDraw, BitVec.getLsbD_and]

/-! ### A result, then a flag -/

/-- Settles O12. The carry is the last write, so it stands in `VF` for every `x`. -/
theorem addRegSetsCarry : Obligations.AddRegSetsCarry := by
  unfold Obligations.AddRegSetsCarry
  refine fun x y => ⟨decodeWord_ofNat rfl (by omega), fun s => ?_⟩
  refine ⟨_, exec_effect (.addReg x y) s rfl, rfl, ?_, fun hx => ?_, effect_frame (.addReg x y) s⟩
  · rw [Instr.effect, State.reg_setReg_self, carryFlag_eq]
  · rw [Instr.effect, State.reg_setReg_setReg_of_ne _ _ _ hx, BitVec.toNat_add]

/-- Settles O13. The flag is the last write, so it stands in `VF` for every `x`. -/
theorem subSetsNoBorrow : Obligations.SubSetsNoBorrow := by
  unfold Obligations.SubSetsNoBorrow
  refine fun x y => ⟨decodeWord_ofNat rfl (by omega), fun s => ?_⟩
  refine ⟨_, exec_effect (.sub x y) s rfl, rfl, ?_, fun hx => ?_, effect_frame (.sub x y) s⟩
  · rw [Instr.effect, State.reg_setReg_self, noBorrowFlag_eq]
  · rw [Instr.effect, State.reg_setReg_setReg_of_ne _ _ _ hx, natCast_toNat_sub]

/-- Settles O14, as O13 with the operands exchanged. -/
theorem subnSetsNoBorrow : Obligations.SubnSetsNoBorrow := by
  unfold Obligations.SubnSetsNoBorrow
  refine fun x y => ⟨decodeWord_ofNat rfl (by omega), fun s => ?_⟩
  refine ⟨_, exec_effect (.subn x y) s rfl, rfl, ?_, fun hx => ?_, effect_frame (.subn x y) s⟩
  · rw [Instr.effect, State.reg_setReg_self, noBorrowFlag_eq]
  · rw [Instr.effect, State.reg_setReg_setReg_of_ne _ _ _ hx, natCast_toNat_sub]

/-! ### A flag, then a shift -/

/-- Settles O15. The effect does not name `y`; with `x = F` the shift drops the flag's one bit. -/
theorem shrShiftsInPlace : Obligations.ShrShiftsInPlace := by
  unfold Obligations.ShrShiftsInPlace
  refine fun x y => ⟨decodeWord_ofNat rfl (by omega), fun s => ?_⟩
  refine ⟨(Instr.shr x y).effect s, fun y' => exec_effect (.shr x y') s rfl, rfl, fun hx => ⟨?_, ?_⟩, ?_,
    effect_frame (.shr x y) s⟩
  · rw [effect_shr, State.flagThenShift_flag _ _ _ hx, lowBitFlag_toNat]
  · rw [effect_shr, State.flagThenShift_result _ _ _ hx, State.advance_reg, toNat_shiftRight_one]
  · rintro rfl
    rw [effect_shr, State.flagThenShift_VF, lowBitFlag_shiftRight_one]

/-- Settles O16. The effect does not name `y`; with `x = F` the shift doubles the flag. -/
theorem shlShiftsInPlace : Obligations.ShlShiftsInPlace := by
  unfold Obligations.ShlShiftsInPlace
  refine fun x y => ⟨decodeWord_ofNat rfl (by omega), fun s => ?_⟩
  refine ⟨(Instr.shl x y).effect s, fun y' => exec_effect (.shl x y') s rfl, rfl, fun hx => ⟨?_, ?_⟩, ?_,
    effect_frame (.shl x y) s⟩
  · rw [effect_shl, State.flagThenShift_flag _ _ _ hx, highBitFlag_toNat]
  · rw [effect_shl, State.flagThenShift_result _ _ _ hx, State.advance_reg, toNat_shiftLeft_one]
  · rintro rfl
    rw [effect_shl, State.flagThenShift_VF, highBitFlag_shiftLeft_one_toNat]

end Sys2Proof

end

/-! # The index register, loads and stores (spec 42_index_memory.md)

An access names its byte `k` by the effective address `I + k` (R140). The bytes that `State.stored` leaves at these
addresses, and the registers that `State.setRegs` fills from them, are what the rules of the stores and of the load say;
the range of the access decides between the effect and the fault. -/

section

namespace Sys2Proof.Machine

/-! ### The values of `I` (R142, R143) -/

theorem add_zextByte_toNat (w : Word) (b : Byte) : (w + zextByte b).toNat = (w.toNat + b.toNat) % 65536 := by
  rw [BitVec.toNat_add, zextByte_toNat]

/-- Five times the greatest byte, 0x4FB, fits in 16 bits (R143). -/
theorem glyphAddr_toNat (b : Byte) : (glyphAddr b).toNat = 5 * b.toNat := by
  have hb := b.isLt
  rw [glyphAddr, BitVec.toNat_mul, zextByte_toNat]
  exact Nat.mod_eq_of_lt (by omega : 5 * b.toNat < 2 ^ 16)

/-! ### The decimal digits (R144) -/

/-- A number that is at most some byte is the value of its own byte. -/
theorem toNat_ofNat_of_le_byte {n : Nat} (b : Byte) (h : n ≤ b.toNat) : (BitVec.ofNat 8 n).toNat = n :=
  Nat.mod_eq_of_lt (h.trans_lt b.isLt)

theorem bcdDigits_hundreds (b : Byte) : ((bcdDigits b).getD 0 0).toNat = b.toNat / 100 :=
  toNat_ofNat_of_le_byte b (Nat.div_le_self ..)

theorem bcdDigits_tens (b : Byte) : ((bcdDigits b).getD 1 0).toNat = b.toNat / 10 % 10 :=
  toNat_ofNat_of_le_byte b ((Nat.mod_le ..).trans (Nat.div_le_self ..))

theorem bcdDigits_ones (b : Byte) : ((bcdDigits b).getD 2 0).toNat = b.toNat % 10 :=
  toNat_ofNat_of_le_byte b (Nat.mod_le ..)

/-! ### The bytes of an access, by effective address (R140) -/

section

variable (s : State)

/-- A store leaves byte `k` of its list at `I + k`. -/
theorem State.byteAt_stored (bs : List Byte) {k : Nat} (h : k < bs.length) :
    (s.stored bs).byteAt (s.effAddr k) = bs.getD k 0 := by
  have hin : s.i.toNat ≤ s.i.toNat + k ∧ s.i.toNat + k < s.i.toNat + bs.length := by omega
  rw [State.stored, State.byteAt_writeList, State.effAddr, if_pos hin, Nat.add_sub_cancel_left]

variable {k x : Reg}

theorem State.lt_length_regsUpTo (h : k ≤ x) : k.val < (s.regsUpTo x).length := by
  rw [State.regsUpTo_length]
  exact Nat.lt_succ_of_le h

theorem State.regsUpTo_getD (h : k ≤ x) : (s.regsUpTo x).getD k.val 0 = s.reg k := by
  have hk := s.lt_length_regsUpTo h
  rw [List.getD_eq_getElem _ _ hk, State.regsUpTo_getElem s x k hk]

theorem State.loaded_getD (h : k ≤ x) (b : Byte) :
    (s.loaded (x.val + 1)).getD k.val b = s.byteAt (s.effAddr k.val) := by
  have hk : k.val < (s.loaded (x.val + 1)).length := by
    rw [State.loaded, List.length_map, List.length_range]
    exact Nat.lt_succ_of_le h
  rw [List.getD_eq_getElem _ _ hk]
  simp [State.loaded, State.effAddr]

end

end Sys2Proof.Machine

namespace Sys2Proof

open Machine

/-! ### What the stores and the load leave -/

section

variable (s : State) (x : Reg)

theorem effect_ldB_byteAt {k : Nat} (h : k < 3) :
    ((Instr.ldB x).effect s).byteAt (s.effAddr k) = (bcdDigits (s.reg x)).getD k 0 :=
  s.advance.byteAt_stored (bcdDigits (s.reg x)) h

variable {x} {k : Reg}

theorem effect_ldMemVx_byteAt (h : k ≤ x) : ((Instr.ldMemVx x).effect s).byteAt (s.effAddr k.val) = s.reg k :=
  (s.advance.byteAt_stored (s.regsUpTo x) (s.lt_length_regsUpTo h)).trans (s.regsUpTo_getD h)

theorem effect_ldVxMem_reg (h : k ≤ x) : ((Instr.ldVxMem x).effect s).reg k = s.byteAt (s.effAddr k.val) := by
  rw [Instr.effect, State.reg_setRegs, State.loaded_getD s h]

end

/-! ### The statements -/

/-- Settles O21, by the range of the three bytes: the digits are stored, or the fault is raised. -/
theorem ldBStoresDigits : Obligations.LdBStoresDigits := by
  unfold Obligations.LdBStoresDigits
  refine fun x => ⟨decodeWord_ofNat rfl (by omega), fun s hs => ?_, fun s hs => ?_⟩
  · have hrange : (Instr.ldB x).mayRaise s = none := if_neg (not_lt.mpr hs)
    refine ⟨_, exec_effect (.ldB x) s hrange, rfl, ?_, ?_, ?_, effect_frame (.ldB x) s⟩
    · rw [effect_ldB_byteAt s x (by decide), bcdDigits_hundreds]
    · rw [effect_ldB_byteAt s x (by decide), bcdDigits_tens]
    · rw [effect_ldB_byteAt s x (by decide), bcdDigits_ones]
  · exact exec_raises (.ldB x) s (if_pos hs)

/-- Settles O22, by the range of the `x + 1` bytes: the registers are stored, or the fault is raised. -/
theorem ldMemVxStoresRegisters : Obligations.LdMemVxStoresRegisters := by
  unfold Obligations.LdMemVxStoresRegisters
  refine fun x => ⟨decodeWord_ofNat rfl (by omega), fun s hs => ?_, fun s hs => ?_⟩
  · have hrange : (Instr.ldMemVx x).mayRaise s = none := if_neg (not_lt.mpr hs)
    exact ⟨_, exec_effect (.ldMemVx x) s hrange, rfl, fun k hk => effect_ldMemVx_byteAt s hk,
      effect_frame (.ldMemVx x) s⟩
  · exact exec_raises (.ldMemVx x) s (if_pos hs)

/-- Settles O23, by the range of the `x + 1` bytes: the registers are loaded, or the fault is raised. -/
theorem ldVxMemLoadsRegisters : Obligations.LdVxMemLoadsRegisters := by
  unfold Obligations.LdVxMemLoadsRegisters
  refine fun x => ⟨decodeWord_ofNat rfl (by omega), fun s hs => ?_, fun s hs => ?_⟩
  · have hrange : (Instr.ldVxMem x).mayRaise s = none := if_neg (not_lt.mpr hs)
    exact ⟨_, exec_effect (.ldVxMem x) s hrange, rfl, fun k hk => effect_ldVxMem_reg s hk,
      effect_frame (.ldVxMem x) s⟩
  · exact exec_raises (.ldVxMem x) s (if_pos hs)

/-- Settles O24. The dump keeps `I`, so the load reads at the addresses that the dump wrote (R140). -/
theorem dumpThenLoadRestores : Obligations.DumpThenLoadRestores := by
  unfold Obligations.DumpThenLoadRestores
  intro x s t u hs ht hi hmem
  have hdump : (Instr.ldMemVx x).mayRaise s = none := if_neg (not_lt.mpr hs)
  obtain rfl : (Instr.ldMemVx x).effect s = t := by
    rw [exec_effect _ s hdump] at ht
    cases ht
    rfl
  have hui : u.i = s.i := hi
  have hload : (Instr.ldVxMem x).mayRaise u = none := if_neg (by rw [hui]; exact not_lt.mpr hs)
  refine ⟨_, exec_effect (.ldVxMem x) u hload, fun k hk => ?_⟩
  calc ((Instr.ldVxMem x).effect u).reg k
      = u.byteAt (u.effAddr k.val) := effect_ldVxMem_reg u hk
    _ = ((Instr.ldMemVx x).effect s).byteAt (s.effAddr k.val) := by
      rw [hmem, State.effAddr, hui, State.effAddr]
    _ = s.reg k := effect_ldMemVx_byteAt s hk

/-- Settles O18. -/
theorem ldILoads : Obligations.LdILoads := by
  unfold Obligations.LdILoads
  refine fun nnn => ⟨decodeWord_ofNat rfl rfl, fun s => ?_⟩
  exact ⟨_, exec_effect (.ldI nnn) s rfl, rfl, zextAddr_toNat nnn, effect_frame (.ldI nnn) s⟩

/-- Settles O19. The frame, which lists `PC` and `I` alone, keeps `VF`. -/
theorem addIWrapsAtSixteenBits : Obligations.AddIWrapsAtSixteenBits := by
  unfold Obligations.AddIWrapsAtSixteenBits
  refine fun x => ⟨decodeWord_ofNat rfl (by omega), fun s => ?_⟩
  exact ⟨_, exec_effect (.addI x) s rfl, rfl, add_zextByte_toNat s.i (s.reg x), effect_frame (.addI x) s⟩

/-- Settles O20. -/
theorem ldFMultipliesByFive : Obligations.LdFMultipliesByFive := by
  unfold Obligations.LdFMultipliesByFive
  refine fun x => ⟨decodeWord_ofNat rfl (by omega), fun s => ?_⟩
  exact ⟨_, exec_effect (.ldF x) s rfl, rfl, glyphAddr_toNat (s.reg x), effect_frame (.ldF x) s⟩

end Sys2Proof

end

/-! # The display (spec 43_display.md)

`drawnPixels` lists the pixels that `Dxyn` toggles, each once, and `SpriteCovers` names the same pixels by column and
row. A blit is therefore an exclusive or with the list's indicator, and drawing twice from the same origin is that
exclusive or twice. -/

section

namespace Sys2Proof.Machine

theorem collisionFlag_eq (c : Bool) : collisionFlag c = if c then 1 else 0 := rfl

/-- Distinct pixels are each flipped once (R152). -/
theorem toggle_pixel_of_nodup {ks : List Nat} (hn : ks.Nodup) (fb : BitVec 2048) (c : Bool) {k : Nat}
    (hk : k < 2048) : (toggle ks (fb, c)).1.getLsbD k = (fb.getLsbD k ^^ decide (k ∈ ks)) := by
  rw [toggle_pixel ks fb c k hk, hn.count]
  by_cases h : k ∈ ks <;> simp [h]

/-- A pixel index determines its column and its row, the coordinates modulo the screen's size (R29, R150). -/
theorem eq_pixelIndex_iff {px : Nat} (hx : px < 64) (py cx cy : Nat) :
    px + 64 * py = pixelIndex cx cy ↔ px = cx % 64 ∧ py = cy % 32 := by
  rw [pixelIndex]
  omega

/-! ### The pixels that a sprite toggles (R150, R152) -/

section

variable (x y : Reg) (n : Fin 16) (s : State)

theorem drawnPixels_nodup : (drawnPixels x y n s).Nodup :=
  nodup_spritePixels _ _ _ _ (by rw [List.length_map, List.length_range]; omega)

theorem lt_of_mem_drawnPixels {k : Nat} (h : k ∈ drawnPixels x y n s) : k < 2048 := by
  obtain ⟨r, c, -, -, -, rfl⟩ := (mem_spritePixels _ _ _ _ _).mp h
  exact pixelIndex_lt _ _

theorem mem_drawnPixels_iff {px : Nat} (hx : px < 64) (py : Nat) :
    px + 64 * py ∈ drawnPixels x y n s ↔ SpriteCovers x y n s px py := by
  simp only [drawnPixels, mem_spritePixels, SpriteCovers, eq_pixelIndex_iff hx, List.length_map, List.length_range,
    List.getElem_map, List.getElem_range, Nat.zero_add, exists_prop, State.effAddr]

/-- Every pixel that a sprite toggles has a column and a row on the screen. -/
theorem exists_mem_drawnPixels_iff (p : Nat → Prop) :
    (∃ k ∈ drawnPixels x y n s, p k) ↔
      ∃ px py, px < 64 ∧ py < 32 ∧ p (px + 64 * py) ∧ SpriteCovers x y n s px py := by
  constructor
  · rintro ⟨k, hk, hp⟩
    have hlt := lt_of_mem_drawnPixels x y n s hk
    have hx : k % 64 < 64 := Nat.mod_lt _ (by decide)
    have hsplit : k % 64 + 64 * (k / 64) = k := Nat.mod_add_div k 64
    refine ⟨k % 64, k / 64, hx, by omega, hsplit.symm ▸ hp, ?_⟩
    rwa [← mem_drawnPixels_iff x y n s hx, hsplit]
  · rintro ⟨px, py, hx, -, hp, hc⟩
    exact ⟨px + 64 * py, (mem_drawnPixels_iff x y n s hx py).mpr hc, hp⟩

/-! ### What a blit leaves -/

theorem State.blit_pixel {k : Nat} (hk : k < 2048) :
    (s.blit x y n).1.getLsbD k = (s.pixel k ^^ decide (k ∈ drawnPixels x y n s)) :=
  toggle_pixel_of_nodup (drawnPixels_nodup x y n s) s.fb false hk

/-- A collision is a toggled pixel that was set (R152). -/
theorem State.blit_collision_iff :
    (s.blit x y n).2 = true ↔ ∃ k ∈ drawnPixels x y n s, s.pixel k = true := by
  rw [State.blit, toggle_collision _ (drawnPixels_nodup x y n s) fun k => lt_of_mem_drawnPixels x y n s]
  simp only [Bool.false_or, List.any_eq_true, State.pixel]

end

end Sys2Proof.Machine

namespace Sys2Proof

open Machine

/-- An instruction that raises no fault leaves nothing but its `effect`. -/
theorem eq_effect_of_exec {i : Instr} {s t : State} (hm : i.mayRaise s = none) (h : exec i s = .next t) :
    t = i.effect s :=
  Host.Outcome.next.inj (h.symm.trans (exec_effect i s hm))

/-! ### What `Dxyn` leaves (R152) -/

section

variable (x y : Reg) (n : Fin 16) (s : State)

theorem effect_drw_pixel {k : Nat} (hk : k < 2048) :
    ((Instr.drw x y n).effect s).pixel k = (s.pixel k ^^ decide (k ∈ drawnPixels x y n s)) :=
  s.blit_pixel x y n hk

theorem effect_drw_VF : ((Instr.drw x y n).effect s).reg VF = if (s.blit x y n).2 then 1 else 0 := by
  rw [Instr.effect, State.reg_setReg_self, collisionFlag_eq]

theorem effect_drw_VF_of_collision (h : ∃ k ∈ drawnPixels x y n s, s.pixel k = true) :
    ((Instr.drw x y n).effect s).reg VF = 1 := by
  rw [effect_drw_VF, if_pos ((s.blit_collision_iff x y n).mpr h)]

theorem effect_drw_VF_of_no_collision (h : ¬ ∃ k ∈ drawnPixels x y n s, s.pixel k = true) :
    ((Instr.drw x y n).effect s).reg VF = 0 := by
  rw [effect_drw_VF, if_neg (mt (s.blit_collision_iff x y n).mp h)]

variable {x y}

/-- When the origin's registers are not the flag register, `Dxyn` keeps all that the sprite's place and shape depend
on. -/
theorem drawnPixels_effect_drw (hx : x ≠ VF) (hy : y ≠ VF) :
    drawnPixels x y n ((Instr.drw x y n).effect s) = drawnPixels x y n s := by
  have hreg {z : Reg} (hz : z ≠ VF) : ((Instr.drw x y n).effect s).reg z = s.reg z :=
    effect_frame (.drw x y n) s (.v z) (by simp [Instr.writes, hz])
  rw [drawnPixels, hreg hx, hreg hy]
  rfl

end

/-! ### The statements -/

/-- Settles O26, by the range of the `n` rows. In memory, a pixel flips iff it is listed in `drawnPixels`, and
`VF` says whether a listed pixel was set; else the fault is raised. -/
theorem drwFlipsSpritePixels : Obligations.DrwFlipsSpritePixels := by
  unfold Obligations.DrwFlipsSpritePixels
  refine fun x y n => ⟨decodeWord_ofNat rfl (by omega), fun s hs => ?_, fun s hn hi => ?_⟩
  · have hrange : (Instr.drw x y n).mayRaise s = none := if_neg (by omega)
    have hcollision := exists_mem_drawnPixels_iff x y n s fun k => s.pixel k = true
    refine ⟨_, exec_effect (.drw x y n) s hrange, rfl, fun px py hx hy => ?_, fun hset => ?_, fun hclear => ?_,
      effect_frame (.drw x y n) s⟩
    · rw [effect_drw_pixel x y n s (by omega : px + 64 * py < 2048), ← mem_drawnPixels_iff x y n s hx]
      cases s.pixel (px + 64 * py) <;> simp
    · exact effect_drw_VF_of_collision x y n s (hcollision.mpr hset)
    · refine effect_drw_VF_of_no_collision x y n s fun h => ?_
      obtain ⟨px, py, hx, hy, hp, hc⟩ := hcollision.mp h
      exact hclear px py hx hy hp hc
  · exact exec_raises (.drw x y n) s (if_pos ⟨hn, hi⟩)

/-- Settles O27. The first draw keeps the origin, so the second flips the same pixels back, and meets as set those that
the first draw found clear. -/
theorem drawingTwiceRestores : Obligations.DrawingTwiceRestores := by
  unfold Obligations.DrawingTwiceRestores
  intro x y n s t u hx hy hs ht hu
  have hfirst : (Instr.drw x y n).mayRaise s = none := if_neg (by omega)
  obtain rfl := eq_effect_of_exec hfirst ht
  -- The first draw keeps `I`, so the second one's rows lie in memory too.
  have hsecond : (Instr.drw x y n).mayRaise ((Instr.drw x y n).effect s) = none := hfirst
  obtain rfl := eq_effect_of_exec hsecond hu
  have hsame := drawnPixels_effect_drw n s hx hy
  constructor
  · refine BitVec.eq_of_getLsbD_eq fun k hk => ?_
    change State.pixel _ k = s.pixel k
    rw [effect_drw_pixel x y n _ hk, effect_drw_pixel x y n s hk, hsame, Bool.xor_assoc, Bool.xor_self, Bool.xor_false]
  · intro hclear
    obtain ⟨k, hk, hp⟩ := (exists_mem_drawnPixels_iff x y n s fun k => s.pixel k = false).mpr hclear
    refine effect_drw_VF_of_collision x y n _ ⟨k, hsame ▸ hk, ?_⟩
    rw [effect_drw_pixel x y n s (lt_of_mem_drawnPixels x y n s hk), hp, decide_eq_true hk]
    rfl

/-- Settles O25. The empty framebuffer reads as clear at every index. -/
theorem clsClearsScreen : Obligations.ClsClearsScreen := by
  unfold Obligations.ClsClearsScreen
  refine ⟨decodeWord_encode .cls, fun s => ?_⟩
  exact ⟨_, exec_effect .cls s rfl, rfl, fun _ => BitVec.getLsbD_zero, effect_frame .cls s⟩

end Sys2Proof

end

/-! # The keypad and the timers (spec 44_keypad_timers.md)

The key wait picks from the list of pressed keys, which is ascending: its first member, its last, or the one that the
drawn choice falls on. The other four instructions are read off their `effect`. -/

section

namespace Sys2Proof.Machine

/-! ### What `pick` answers, for each setting (R163) -/

section

variable (choice : Nat) (ks : List (Fin 16))

theorem pickKey_lowest : pickKey .lowest choice ks = ks.head? := by
  match ks with
  | [] | [_] | _ :: _ :: _ => rfl

theorem pickKey_highest : pickKey .highest choice ks = ks.getLast? := by
  match ks with
  | [] | [_] => rfl
  | k :: l :: ks => rw [List.getLast?_cons, pickKey, List.getLastD_eq_getLast?]

theorem pickKey_any : pickKey .any choice ks = ks[choice % ks.length]? := by
  match ks with
  | [] | _ :: _ :: _ => rfl
  | [k] => rw [List.length_singleton, Nat.mod_one, pickKey, List.getElem?_cons_zero]

variable {choice ks} {j k : Fin 16}

theorem le_of_pickKey_lowest (hs : ks.Pairwise (· ≤ ·)) (h : pickKey .lowest choice ks = some k) (hj : j ∈ ks) :
    k ≤ j := by
  rw [pickKey_lowest] at h
  rw [← (List.head_eq_iff_head?_eq_some (List.ne_nil_of_mem hj)).mpr h]
  exact hs.rel_head hj

theorem le_of_pickKey_highest (hs : ks.Pairwise (· ≤ ·)) (h : pickKey .highest choice ks = some k) (hj : j ∈ ks) :
    j ≤ k := by
  rw [pickKey_highest] at h
  rw [← (List.getLast_eq_iff_getLast?_eq_some (List.ne_nil_of_mem hj)).mpr h]
  exact hs.rel_getLast hj

/-- The choice that is a pressed key's place in the list falls on that key. -/
theorem pickKey_any_idxOf (hj : j ∈ ks) : pickKey .any (ks.idxOf j) ks = some j := by
  rw [pickKey_any, Nat.mod_eq_of_lt (List.idxOf_lt_length_of_mem hj), List.getElem?_idxOf hj]

end

/-! ### The pressed keys -/

section

variable (s : State)

theorem State.pressedKeys_pairwise_le : s.pressedKeys.Pairwise (· ≤ ·) :=
  (List.sortedLT_finRange 16).sortedLE.pairwise.filter _

theorem State.pressedKeys_eq_nil (h : ∀ k : Fin 16, s.key[k.val] = false) : s.pressedKeys = [] :=
  List.eq_nil_iff_forall_not_mem.mpr fun k hk =>
    Bool.false_ne_true ((h k).symm.trans ((s.mem_pressedKeys k).mp hk))

theorem State.exists_pickKey_of_pressed {j : Fin 16} (h : s.key[j.val] = true) :
    ∃ k, pickKey s.params.keywaitPick s.choice s.pressedKeys = some k :=
  Option.ne_none_iff_exists'.mp <| mt (pickKey_eq_none _ _ _).mp <|
    List.ne_nil_of_mem ((s.mem_pressedKeys j).mpr h)

/-! ### What the key wait leaves (R163) -/

variable (x : Reg) {k : Fin 16}

theorem keyByte_toNat (k : Fin 16) : (keyByte k).toNat = k.val :=
  Nat.mod_eq_of_lt (k.isLt.trans (by decide))

theorem State.keyWait_of_pickKey_none (h : pickKey s.params.keywaitPick s.choice s.pressedKeys = none) :
    s.keyWait x = s := by
  simp only [State.keyWait, h]

theorem State.keyWait_of_pickKey_some (h : pickKey s.params.keywaitPick s.choice s.pressedKeys = some k) :
    s.keyWait x = (s.advance.setReg x (keyByte k)).redraw := by
  simp only [State.keyWait, h]

theorem State.keyWait_reg_toNat (h : pickKey s.params.keywaitPick s.choice s.pressedKeys = some k) :
    ((s.keyWait x).reg x).toNat = k.val := by
  rw [s.keyWait_of_pickKey_some x h, State.redraw_reg, State.reg_setReg_self, keyByte_toNat]

theorem State.keyWait_pc (h : pickKey s.params.keywaitPick s.choice s.pressedKeys = some k) :
    (s.keyWait x).pc = s.pc + 2 := by
  rw [s.keyWait_of_pickKey_some x h, State.redraw_pc, State.setReg_pc, State.advance_pc]

end

end Sys2Proof.Machine

namespace Sys2Proof

open Machine

/-- Settles O30. With no key pressed nothing is picked, and the wait leaves the state as it is; else a pressed key is
picked. -/
theorem keyWaitPicksPressedKey : Obligations.KeyWaitPicksPressedKey := by
  unfold Obligations.KeyWaitPicksPressedKey
  refine fun x => ⟨decodeWord_ofNat rfl (by omega), fun s hup => ?_, fun s j hj => ?_, fun s j hj hany => ?_⟩
  · have hnone := (pickKey_eq_none s.params.keywaitPick s.choice _).mpr (s.pressedKeys_eq_nil hup)
    rw [exec_effect (.ldVxK x) s rfl, Instr.effect, s.keyWait_of_pickKey_none x hnone]
  · obtain ⟨k, hk⟩ := s.exists_pickKey_of_pressed hj
    have hdown : s.key[k.val] = true := (s.mem_pressedKeys k).mp (mem_of_pickKey _ _ _ hk)
    have hmem := (s.mem_pressedKeys j).mpr hj
    exact ⟨_, k, exec_effect (.ldVxK x) s rfl, s.keyWait_pc x hk, hdown, s.keyWait_reg_toNat x hk,
      fun hlow => le_of_pickKey_lowest s.pressedKeys_pairwise_le (hlow ▸ hk) hmem,
      fun hhigh => le_of_pickKey_highest s.pressedKeys_pairwise_le (hhigh ▸ hk) hmem, effect_frame (.ldVxK x) s⟩
  · have hpick : pickKey s.params.keywaitPick (s.pressedKeys.idxOf j) s.pressedKeys = some j :=
      hany ▸ pickKey_any_idxOf ((s.mem_pressedKeys j).mpr hj)
    exact ⟨_, _, exec_effect (.ldVxK x) { s with choice := s.pressedKeys.idxOf j } rfl,
      State.keyWait_reg_toNat _ x hpick⟩

/-- Settles O28, by the range of the index: a byte that names a key makes both skips on that key, a greater one raises
the fault. -/
theorem skipsOnKey : Obligations.SkipsOnKey := by
  unfold Obligations.SkipsOnKey
  refine fun x => ⟨decodeWord_ofNat rfl (by omega), decodeWord_ofNat rfl (by omega),
    fun s k hk => ?_, fun s hs => ?_⟩
  · have hrange : (Instr.skp x).mayRaise s = none := if_neg (by omega)
    have hkey : s.keyDown (s.reg x) = s.key[k.val] := (s.keyDown_eq (by omega)).trans (by simp only [hk])
    refine ⟨⟨_, exec_effect (.skp x) s hrange, ?_, sameBut_skipIf s _⟩,
      _, exec_effect (.sknp x) s hrange, ?_, sameBut_skipIf s _⟩
    · rw [Instr.effect, State.skipIf_eq, hkey, State.setPc_pc]
    · rw [Instr.effect, State.skipIf_eq, hkey, State.setPc_pc]
      cases s.key[k.val] <;> rfl
  · exact ⟨exec_raises (.skp x) s (if_pos hs), exec_raises (.sknp x) s (if_pos hs)⟩

/-- Settles O29. -/
theorem ldVxDTReadsTimer : Obligations.LdVxDTReadsTimer := by
  unfold Obligations.LdVxDTReadsTimer
  refine fun x => ⟨decodeWord_ofNat rfl (by omega), fun s => ?_⟩
  exact ⟨_, exec_effect (.ldVxDT x) s rfl, rfl, s.advance.reg_setReg_self x s.dt, effect_frame (.ldVxDT x) s⟩

/-- Settles O31. `SOUND_ACTIVE` is read off the new `ST`. -/
theorem timersAreSet : Obligations.TimersAreSet := by
  unfold Obligations.TimersAreSet
  refine fun x => ⟨decodeWord_ofNat rfl (by omega), decodeWord_ofNat rfl (by omega), fun s => ⟨?_, ?_⟩⟩
  · exact ⟨_, exec_effect (.ldDTVx x) s rfl, rfl, rfl, effect_frame (.ldDTVx x) s⟩
  · exact ⟨_, exec_effect (.ldSTVx x) s rfl, rfl, rfl, bne_iff_ne, effect_frame (.ldSTVx x) s⟩

end Sys2Proof

end

/-! # The host's operations (spec 45_host_operations.md)

Each operation is said once, on the two sides of the latch and of its own bound; `State.hostOp_cases` gathers what the
operations can leave, and an invariant of every run is then one short case per operation. -/

section

namespace Sys2Proof.Machine

/-- The state after LOAD placed an image, from 0x200 upward (R175). Used up to 3584 bytes only. -/
def State.withImage (s : State) (bytes : List Byte) : State :=
  { s with mem := Memory.writeList s.params s.mem 0x200 bytes }

/-! ### One operation -/

theorem imageFits_iff (bytes : List Byte) : imageFits bytes = true ↔ bytes.length ≤ 3584 := decide_eq_true_iff

theorem keyIndexOk_iff (index : Nat) : keyIndexOk index = true ↔ index ≤ 15 := decide_eq_true_iff

section

variable (s : State)

theorem State.loadOp_of_fault (bytes : List Byte) (hf : s.fault ≠ none) : s.loadOp bytes = (s, .ok) :=
  if_pos (Option.isSome_iff_ne_none.mpr hf)

theorem State.loadOp_of_le {bytes : List Byte} (hf : s.fault = none) (h : bytes.length ≤ 3584) :
    s.loadOp bytes = (s.withImage bytes, .ok) := by
  rw [State.loadOp, if_neg (by simp [hf]), if_pos ((imageFits_iff bytes).mpr h)]
  rfl

theorem State.loadOp_of_gt {bytes : List Byte} (hf : s.fault = none) (h : bytes.length > 3584) :
    s.loadOp bytes = (s, .error (.loadOverflow bytes.length)) := by
  rw [State.loadOp, if_neg (by simp [hf]), if_neg (mt (imageFits_iff bytes).mp (not_le.mpr h))]

theorem State.tickOp_of_fault (hf : s.fault ≠ none) : s.tickOp = s :=
  if_pos (Option.isSome_iff_ne_none.mpr hf)

theorem State.tickOp_of_no_fault (hf : s.fault = none) :
    s.tickOp = (s.setDt (countDown s.dt)).setSt (countDown s.st) :=
  if_neg (by simp [hf])

theorem State.setKeyOp_of_fault (index : Nat) (pressed : Bool) (hf : s.fault ≠ none) :
    s.setKeyOp index pressed = (s, .ok) :=
  if_pos (Option.isSome_iff_ne_none.mpr hf)

theorem State.setKeyOp_of_key (k : Fin 16) (pressed : Bool) (hf : s.fault = none) :
    s.setKeyOp k.val pressed = (s.setKeyAt k pressed, .ok) := by
  rw [State.setKeyOp, if_neg (by simp [hf]), if_pos ((keyIndexOk_iff _).mpr (Nat.le_of_lt_succ k.isLt)),
    Fin.ofNat_val_eq_self]

theorem State.setKeyOp_of_gt {index : Nat} (pressed : Bool) (hf : s.fault = none) (h : index > 15) :
    s.setKeyOp index pressed = (s, .error (.keyIndexError index)) := by
  rw [State.setKeyOp, if_neg (by simp [hf]), if_neg (mt (keyIndexOk_iff index).mp (not_le.mpr h))]

theorem State.stepOp_of_fault (rnd : Byte) (choice : Nat) (hf : s.fault ≠ none) : s.stepOp rnd choice = s :=
  if_pos (Option.isSome_iff_ne_none.mpr hf)

/-- The host's STEP changes nothing, or leaves what `step` leaves with the drawn inputs in place (R170, R172). -/
theorem State.stepOp_cases (rnd : Byte) (choice : Nat) :
    s.stepOp rnd choice = s ∨ step { s with rnd := rnd, choice := choice } = .next (s.stepOp rnd choice) := by
  unfold State.stepOp
  split
  · exact .inl rfl
  · split
    next t ht => exact .inr ht
    next => exact .inl rfl
    next => exact .inl rfl

/-- While a fault is latched, RESET alone changes the state (R203). -/
theorem State.hostOp_of_fault {op : HostOp} (hf : s.fault ≠ none) (hop : op ≠ .reset) : (s.hostOp op).1 = s := by
  cases op with
  | reset => exact absurd rfl hop
  | load bytes => exact congrArg Prod.fst (s.loadOp_of_fault bytes hf)
  | step rnd choice => exact s.stepOp_of_fault rnd choice hf
  | tickTimers => exact s.tickOp_of_fault hf
  | setKey index pressed => exact congrArg Prod.fst (s.setKeyOp_of_fault index pressed hf)
  | framebuffer | soundActive | faultStatus => rfl

/-- What an operation of the host can leave (R170): the state it found, the reset state, an image of at most 3584 bytes
placed, what a STEP leaves, other timers, or one other key. -/
theorem State.hostOp_cases (op : HostOp) :
    (s.hostOp op).1 = s ∨
    (s.hostOp op).1 = State.resetWith s.params s.rnd s.choice s.draws ∨
    (∃ bytes : List Byte, bytes.length ≤ 3584 ∧ (s.hostOp op).1 = s.withImage bytes) ∨
    (∃ rnd choice, step { s with rnd := rnd, choice := choice } = .next (s.hostOp op).1) ∨
    (∃ dt st, (s.hostOp op).1 = (s.setDt dt).setSt st) ∨
    ∃ k pressed, (s.hostOp op).1 = s.setKeyAt k pressed := by
  by_cases hreset : op = .reset
  · subst hreset
    exact .inr (.inl rfl)
  by_cases hf : s.fault = none
  · cases op with
    | reset => exact absurd rfl hreset
    | load bytes =>
      by_cases h : bytes.length ≤ 3584
      · exact .inr (.inr (.inl ⟨bytes, h, congrArg Prod.fst (s.loadOp_of_le hf h)⟩))
      · exact .inl (congrArg Prod.fst (s.loadOp_of_gt hf (not_le.mp h)))
    | step rnd choice =>
      exact (s.stepOp_cases rnd choice).imp id fun h => .inr (.inr (.inl ⟨rnd, choice, h⟩))
    | tickTimers => exact .inr (.inr (.inr (.inr (.inl ⟨_, _, s.tickOp_of_no_fault hf⟩))))
    | setKey index pressed =>
      by_cases h : index > 15
      · exact .inl (congrArg Prod.fst (s.setKeyOp_of_gt pressed hf h))
      · have hk := s.setKeyOp_of_key ⟨index, by omega⟩ pressed hf
        exact .inr (.inr (.inr (.inr (.inr ⟨_, pressed, congrArg Prod.fst hk⟩))))
    | framebuffer | soundActive | faultStatus => exact .inl rfl
  · exact .inl (s.hostOp_of_fault hf hreset)

end

/-! ### A run, and what the operations compute -/

/-- What every operation of the host keeps, every sequence of operations keeps (R171). -/
theorem State.hostRun_keeps {P : State → Prop} (hop : ∀ s op, P s → P (s.hostOp op).1) (ops : List HostOp)
    {s : State} (hs : P s) : P (s.hostRun ops) := by
  induction ops generalizing s with
  | nil => exact hs
  | cons op ops ih => exact ih (hop s op hs)

theorem countDown_toNat (b : Byte) : (countDown b).toNat = b.toNat - 1 := by
  unfold countDown
  split <;> bv_omega

theorem State.soundActive_iff (s : State) : s.soundActive = true ↔ s.st.toNat ≠ 0 := by
  rw [State.soundActive, bne_iff_ne, ne_eq, BitVec.toNat_eq]
  rfl

theorem State.byteAt_withImage (s : State) {bytes : List Byte} {k : Nat} (h : k < bytes.length) :
    (s.withImage bytes).byteAt (0x200 + k) = bytes[k] := by
  rw [State.withImage, State.byteAt_writeList, if_pos (by omega), Nat.add_sub_cancel_left, List.getD_eq_getElem _ _ h]

end Sys2Proof.Machine

namespace Sys2Proof

open Machine

/-! ### The invariants of every run -/

/-- An image of at most 3584 bytes ends inside memory (R175). -/
theorem MemoryInv.withImage {s : State} (h : MemoryInv s) {bytes : List Byte} (hl : bytes.length ≤ 3584) :
    MemoryInv (s.withImage bytes) :=
  Memory.wf_writeList s.params s.mem 0x200 bytes (by omega) h

theorem memoryInv_resetWith (p : Params) (rnd : Byte) (choice draws : Nat) :
    MemoryInv (State.resetWith p rnd choice draws) :=
  rfl

theorem pcInv_resetWith (p : Params) (rnd : Byte) (choice draws : Nat) :
    PcInv (State.resetWith p rnd choice draws) :=
  ⟨show (0x200 : Nat) ≤ 0x10FE by decide, fun _ hk => absurd hk (Nat.not_lt_zero _)⟩

/-- Every operation of the host keeps the memory form: only LOAD and STEP write memory, and RESET lists nothing. -/
theorem MemoryInv.hostOp {s : State} (h : MemoryInv s) (op : HostOp) : MemoryInv (s.hostOp op).1 := by
  obtain ht | ht | ⟨bytes, hl, ht⟩ | ⟨rnd, choice, ht⟩ | ⟨dt, st, ht⟩ | ⟨k, pressed, ht⟩ := s.hostOp_cases op
  · rwa [ht]
  · exact ht ▸ memoryInv_resetWith ..
  · exact ht ▸ h.withImage hl
  · exact stepKeepsMemoryForm { s with rnd := rnd, choice := choice } _ h ht
  · rwa [ht]
  · rwa [ht]

/-- Every operation of the host keeps the bounds of R24: only RESET and STEP write `PC` or the stack. -/
theorem PcInv.hostOp {s : State} (h : PcInv s) (op : HostOp) : PcInv (s.hostOp op).1 := by
  obtain ht | ht | ⟨bytes, -, ht⟩ | ⟨rnd, choice, ht⟩ | ⟨dt, st, ht⟩ | ⟨k, pressed, ht⟩ := s.hostOp_cases op
  · rwa [ht]
  · exact ht ▸ pcInv_resetWith ..
  · rwa [ht]
  · exact stepKeepsPcBound { s with rnd := rnd, choice := choice } _ h ht
  · rwa [ht]
  · rwa [ht]

/-- Settles O52. What each operation keeps, a run keeps, and the reset state has both (O53). -/
theorem everyRunKeepsTheInvariants : Obligations.EveryRunKeepsTheInvariants := by
  unfold Obligations.EveryRunKeepsTheInvariants
  obtain ⟨hmem, hpc⟩ := resetHasTheInvariants
  exact ⟨fun s op hm hp => ⟨hm.hostOp op, hp.hostOp op⟩,
    fun ops => ⟨State.hostRun_keeps (fun _ op h => h.hostOp op) ops hmem,
      State.hostRun_keeps (fun _ op h => h.hostOp op) ops hpc⟩⟩

/-! ### What a STEP leaves to the host: the keys and the timers -/

/-- Only `Fx15` writes `DT` (R27, R34). -/
theorem writes_dt_iff (i : Instr) (s : State) : i.writes s .dt ↔ ∃ x, i = .ldDTVx x := by
  cases i <;> simp [Instr.writes, storedAt]

/-- Only `Fx18` writes `ST` (R28, R34). -/
theorem writes_st_iff (i : Instr) (s : State) : i.writes s .st ↔ ∃ x, i = .ldSTVx x := by
  cases i <;> simp [Instr.writes, storedAt]

/-- No instruction writes `KEY` (R30, R34). -/
theorem effect_key (i : Instr) (s : State) : (i.effect s).key = s.key :=
  Vector.ext fun k hk => effect_frame i s (.key ⟨k, hk⟩) (by cases i <;> simp [Instr.writes, storedAt])

theorem effect_dt_of_ne {i : Instr} {s : State} (h : (i.effect s).dt ≠ s.dt) :
    ∃ x, i = .ldDTVx x ∧ (i.effect s).dt = s.reg x := by
  obtain ⟨x, rfl⟩ := (writes_dt_iff i s).mp (of_not_not (mt (effect_frame i s .dt) h))
  exact ⟨x, rfl, rfl⟩

theorem effect_st_of_ne {i : Instr} {s : State} (h : (i.effect s).st ≠ s.st) :
    ∃ x, i = .ldSTVx x ∧ (i.effect s).st = s.reg x := by
  obtain ⟨x, rfl⟩ := (writes_st_iff i s).mp (of_not_not (mt (effect_frame i s .st) h))
  exact ⟨x, rfl, rfl⟩

/-- Settles O45. A STEP that keeps everything but the latch changes no timer; else the fetched instruction leaves its
effect, whose frame names the one writer of each timer. -/
theorem stepLeavesKeysAndTimers : Obligations.StepLeavesKeysAndTimers := by
  unfold Obligations.StepLeavesKeysAndTimers
  intro s t h
  obtain ⟨-, rfl⟩ | ⟨-, c, rfl⟩ | ⟨-, -, op, i, hop, hi, hexec⟩ := step_cases s t h
  · exact ⟨rfl, rfl, absurd rfl, absurd rfl⟩
  · exact ⟨rfl, rfl, absurd rfl, absurd rfl⟩
  obtain ⟨c, -, rfl⟩ | ⟨-, rfl⟩ := exec_cases i s t hexec
  · exact ⟨rfl, rfl, absurd rfl, absurd rfl⟩
  refine ⟨effect_key i s, effect_params i s, fun hdt => ?_, fun hst => ?_⟩
  · obtain ⟨x, rfl, hx⟩ := effect_dt_of_ne hdt
    exact ⟨op, x, hop, hi, hx⟩
  · obtain ⟨x, rfl, hx⟩ := effect_st_of_ne hst
    exact ⟨op, x, hop, hi, hx⟩

/-! ### LOAD, TICK_TIMERS, SET_KEY and the reads -/

/-- LOAD writes the bytes at 0x200 up to the image's end, and no other component (R175). -/
theorem sameBut_withImage (s : State) (bytes : List Byte) :
    SameBut s (s.withImage bytes) fun c => ∃ k, k < bytes.length ∧ c = .byte (0x200 + k) := by
  intro c hc
  cases c with
  | byte a =>
    refine (s.byteAt_writeList 0x200 a bytes).trans (if_neg ?_)
    rintro ⟨hle, hlt⟩
    exact hc ⟨a - 0x200, by omega, by rw [Nat.add_sub_cancel' hle]⟩
  | draw => exact ⟨rfl, rfl, rfl⟩
  | _ => rfl

theorem sameBut_setKeyAt (s : State) (k : Fin 16) (pressed : Bool) :
    SameBut s (s.setKeyAt k pressed) (· = .key k) := by
  intro c hc
  cases c with
  | key j => exact Vector.getElem_set_ne k.isLt j.isLt fun h => hc (congrArg Component.key (Fin.ext h.symm))
  | draw => exact ⟨rfl, rfl, rfl⟩
  | _ => rfl

/-- Settles O58, by the latch and the image's length. -/
theorem loadWritesExactlyTheImage : Obligations.LoadWritesExactlyTheImage := by
  unfold Obligations.LoadWritesExactlyTheImage
  refine ⟨fun s bytes hf hl => ?_, fun s bytes hf hl => s.loadOp_of_gt hf hl,
    fun s bytes hf => s.loadOp_of_fault bytes hf⟩
  exact ⟨s.withImage bytes, s.loadOp_of_le hf hl, fun k h => s.byteAt_withImage h, sameBut_withImage s bytes⟩

/-- Settles O56. The two timers are set one after the other, and each frame names its own. -/
theorem tickCountsDown : Obligations.TickCountsDown := by
  unfold Obligations.TickCountsDown
  refine ⟨fun s hf => ⟨_, congrArg (·, Reply.none) (s.tickOp_of_no_fault hf), countDown_toNat s.dt,
    countDown_toNat s.st, ?_⟩, fun s hf => congrArg (·, Reply.none) (s.tickOp_of_fault hf)⟩
  exact (sameBut_setDt s _).trans (sameBut_setSt _ _)

/-- Settles O57, by the latch and the index's range. -/
theorem setKeySetsOneKey : Obligations.SetKeySetsOneKey := by
  unfold Obligations.SetKeySetsOneKey
  refine ⟨fun s k pressed hf => ?_, fun s index pressed hf h => s.setKeyOp_of_gt pressed hf h,
    fun s index pressed hf => s.setKeyOp_of_fault index pressed hf⟩
  exact ⟨s.setKeyAt k pressed, s.setKeyOp_of_key k pressed hf, Vector.getElem_set_self _, sameBut_setKeyAt s k pressed⟩

/-- Settles O59. Each read answers a value of the state it leaves. -/
theorem readsHaveNoSideEffect : Obligations.ReadsHaveNoSideEffect := by
  unfold Obligations.ReadsHaveNoSideEffect
  exact fun s => ⟨⟨s.fb, rfl, fun _ _ _ _ => rfl⟩, ⟨s.soundActive, rfl, s.soundActive_iff⟩, rfl⟩

end Sys2Proof

end

/-! # Faults (spec 60_exceptions.md)

The fetch, the decode and the instructions of `Instr.mayRaise` raise faults. `exec_raises` and `exec_effect` are the two
sides of an instruction's condition; what is left is that no instruction's effect writes the latch, and what a STEP does
on a word that decodes to nothing, or with a fault latched. -/

section

namespace Sys2Proof

open Machine

/-- No instruction that raises no fault writes the latch (R34). -/
theorem effect_fault (i : Instr) (s : State) : (i.effect s).fault = s.fault :=
  effect_frame i s .fault (by cases i <;> simp [Instr.writes, storedAt])

/-- With no fault latched, a STEP whose fetched word decodes to nothing latches the decode's fault (R192). -/
theorem step_of_decodeWord_none (s : State) {op : Word} (hf : s.fault = none) (hop : s.fetch = .ok op)
    (hnone : decodeWord op = none) : step s = .next { s with fault := some (.unimplementedOpcode op) } := by
  simp only [step, hf, hop, hnone, State.raise]

/-- With a fault latched, a STEP changes nothing (R203). -/
theorem step_of_fault (s : State) {c : Cause} (hf : s.fault = some c) : step s = .next s := by
  simp only [step, hf]

/-- Settles O43, on the two sides of each instruction's condition. -/
theorem eachInstructionRaisesItsOneFault : Obligations.EachInstructionRaisesItsOneFault := by
  unfold Obligations.EachInstructionRaisesItsOneFault
  intro i s
  split
  next c hm => exact exec_raises i s hm
  next hm => exact ⟨i.effect s, exec_effect i s hm, effect_fault i s⟩

/-- Settles O42. A STEP that latches a fault did not run an instruction to its effect, which keeps the latch clear. -/
theorem faultsArePrecise : Obligations.FaultsArePrecise := by
  unfold Obligations.FaultsArePrecise
  intro s t hf h ht
  obtain rfl | ⟨c, rfl⟩ | ⟨i, -, -, rfl⟩ := step_effect_cases s t h
  · rfl
  · rfl
  · exact absurd ((effect_fault i s).trans hf) ht

/-- Settles O39. The two bytes at `PC` are the word fetched, and the decode raises. -/
theorem unimplementedWordRaises : Obligations.UnimplementedWordRaises := by
  unfold Obligations.UnimplementedWordRaises
  rintro s op hf hpc rfl hop
  exact step_of_decodeWord_none s hf (s.fetch_ok hpc) hop

/-- Settles O55, by what each operation does on the faulted side of the latch. -/
theorem faultedMachineIsInert : Obligations.FaultedMachineIsInert := by
  unfold Obligations.FaultedMachineIsInert
  intro s c hc
  have hf : s.fault ≠ none := by simp [hc]
  refine ⟨step_of_fault s hc, fun rnd choice => ?_, ?_, fun index pressed => s.setKeyOp_of_fault index pressed hf,
    fun bytes => s.loadOp_of_fault bytes hf, rfl, rfl, ?_, rfl⟩
  · exact congrArg (·, Reply.none) (s.stepOp_of_fault rnd choice hf)
  · exact congrArg (·, Reply.none) (s.tickOp_of_fault hf)
  · exact congrArg (fun fault => (s, Reply.status fault)) hc

end Sys2Proof

end


/-! # Every instruction and every STEP answers a next state (R195, R203, R218)

Neither the faults nor the refusals of an outcome are ever answered: a fault of the spec is latched in a next state. -/

section

namespace Sys2Proof

open Machine

/-- Every instruction answers a next state, on both sides of its fault's condition. -/
theorem exec_answers_next (i : Instr) (s : State) : ∃ t, exec i s = .next t := by
  cases hm : i.mayRaise s with
  | some c => exact ⟨{ s with fault := some c }, exec_raises i s hm⟩
  | none => exact ⟨i.effect s, exec_effect i s hm⟩

/-- A STEP answers a next state whether the latch is set, the fetch fails, or the fetched word decodes or not. -/
theorem step_answers_next (s : State) : ∃ t, step s = .next t := by
  cases hf : s.fault with
  | some c => exact ⟨s, step_of_fault s hf⟩
  | none =>
    cases hop : s.fetch with
    | error c => exact ⟨{ s with fault := some c }, step_of_fetch_error s hf hop⟩
    | ok op =>
      cases hi : decodeWord op with
      | none => exact ⟨{ s with fault := some (.unimplementedOpcode op) }, step_of_decodeWord_none s hf hop hi⟩
      | some i =>
        obtain ⟨t, ht⟩ := exec_answers_next i s
        exact ⟨t, (step_of_fetch_ok s hf hop hi).trans ht⟩

/-- Settles O41: a STEP that runs an instruction answers what the instruction answers. -/
theorem stepAlwaysAnswersNext : Obligations.StepAlwaysAnswersNext := by
  unfold Obligations.StepAlwaysAnswersNext
  exact ⟨exec_answers_next, step_answers_next⟩

end Sys2Proof

end
